-- ==== Sys2Proof/Word.lean ====
section
/-! DEFINITION. The plain widths of the picotrx4m CORE block (00_scope.md R8, R9): every register value is an
unsigned bit vector. Nothing in this block is signed. -/

namespace Sys2Proof

/-- A 32-bit register value, port word or queue entry (R6 DATA_BITS, WORD_BITS). -/
abbrev Word := BitVec 32

/-- A 16-bit pulse width, capture counter or divisor part (R6 PW_BITS). -/
abbrev Half := BitVec 16

/-- A byte offset within the 256-byte register window (R6 ADDR_BITS, R35). -/
abbrev Offset := BitVec 8

/-- The 64-bit time base and its timestamps (R60). -/
abbrev Stamp := BitVec 64

/-- A transaction word T = WE, SIZE, ADDR, WDATA (R120, R121): 43 bits, presented in one cycle. -/
abbrev Txn := BitVec 43

end Sys2Proof
end

