-- ==== Sys2Proof/Syntax.lean ====
section
/-! DEFINITION. The vocabulary of the block: the 22 legal transactions (30_encoding.md R124), the 18 registers
(10_state.md R35), the error causes (60_exceptions.md R310), what the ports carry in one cycle (R33, R34), and the
lines of a host program (R128 to R130). -/

namespace Sys2Proof

/-- The legal transactions, one constructor per row of spec/opcode_table.json, in its order (R124). A read ignores
WDATA (R121), so it has no operand; a write's operand is its whole WDATA word, reserved bits included (R122, R126). -/
inductive Instr where
  /-- RD CTRL (R150). -/
  | rdCtrl
  /-- WR CTRL (R151). -/
  | wrCtrl (v : Word)
  /-- RD STATUS (R152). -/
  | rdStatus
  /-- RD EVENTS (R154). -/
  | rdEvents
  /-- WR EVENTS (R155). -/
  | wrEvents (v : Word)
  /-- RD CLKDIV (R184). -/
  | rdClkdiv
  /-- WR CLKDIV (R186). -/
  | wrClkdiv (v : Word)
  /-- WR TXFIFO (R190). -/
  | wrTxfifo (v : Word)
  /-- RD STEER_WIDTH (R242). -/
  | rdSteerWidth
  /-- RD THR_WIDTH (R243). -/
  | rdThrWidth
  /-- RD STEER_CNT (R244). -/
  | rdSteerCnt
  /-- RD THR_CNT (R245). -/
  | rdThrCnt
  /-- RD TIME_LO (R270). -/
  | rdTimeLo
  /-- RD TIME_HI (R271). -/
  | rdTimeHi
  /-- RD LAST_LO (R272). -/
  | rdLastLo
  /-- RD LAST_HI (R273). -/
  | rdLastHi
  /-- RD WDT_THRESH (R274). -/
  | rdWdtThresh
  /-- RD WDT (R277). -/
  | rdWdt
  /-- RD PARAM0 (R156). -/
  | rdParam0
  /-- RD PARAM1 (R157). -/
  | rdParam1
  /-- RD BUSERR (R158). -/
  | rdBuserr
  /-- WR BUSERR (R160). -/
  | wrBuserr (v : Word)
deriving DecidableEq, Repr

/-- The mapped registers, in the order of their offsets (R35). -/
inductive Reg where
  | ctrl | status | events | clkdiv | txfifo | steerWidth | thrWidth | steerCnt | thrCnt
  | timeLo | timeHi | lastLo | lastHi | wdtThresh | wdt | param0 | param1 | buserr
deriving DecidableEq, Repr

/-- The cause of a bus error (R310, codes 1 to 7; code 0 is the absence of a record). -/
inductive BusCause where
  /-- ERR_MISALIGNED: `addr[1:0] != 0` (R98). -/
  | misaligned
  /-- ERR_SIZE: `size != 2` (R99). -/
  | size
  /-- ERR_UNMAPPED: no register at the offset (R93). -/
  | unmapped
  /-- ERR_ACCESS: a write to an RO register or a read of TXFIFO (R94). -/
  | access
  /-- ERR_LOCKED: WR CLKDIV while the encoder runs (R186). -/
  | locked
  /-- ERR_NOT_STARTED: WR TXFIFO before the encoder was started (R190). -/
  | notStarted
  /-- ERR_CONFIG: a refused encoder start (R151). -/
  | config
deriving DecidableEq, Repr

/-- What decoding a transaction word gives: a legal transaction, or the error that its encoding is (R125). -/
inductive Decoded where
  | ok (i : Instr)
  | error (c : BusCause)
deriving DecidableEq, Repr

/-- The host port's inputs in one cycle (R33). -/
structure PortIn where
  /-- 1: a transaction is presented this cycle. -/
  sel : Bool
  /-- 1: write, 0: read. -/
  we : Bool
  /-- 0: 1 byte, 1: 2 bytes, 2: 4 bytes, 3: reserved. -/
  size : BitVec 2
  addr : Offset
  wdata : Word
deriving DecidableEq, Repr, Inhabited

/-- A cycle without a transaction (R125: the only no-op). -/
def PortIn.idle : PortIn := { sel := false, we := false, size := 0, addr := 0, wdata := 0 }

/-- The host port's outputs in one cycle (R33). -/
structure PortOut where
  /-- 1: the presented transaction completes this cycle; 0: it is stalled. -/
  ready : Bool
  /-- 0: OKAY, 1: ERROR. -/
  resp : Bool
  rdata : Word
deriving DecidableEq, Repr, Inhabited

/-- The outputs of a cycle with `sel = 0` (R33); a completed write gives the same (R92). -/
def PortOut.okay : PortOut := { ready := true, resp := false, rdata := 0 }

/-- The inputs I_k of one cycle (R90): the reset pin, the host port and the three sampled signal inputs (R34). -/
structure Inputs where
  rst : Bool
  port : PortIn
  steer : Bool
  thr : Bool
  upd : Bool
deriving DecidableEq, Repr, Inhabited

/-- What the environment does next: one clock cycle with its inputs, or the clock stops (R328). -/
inductive Stimulus where
  | cycle (i : Inputs)
  | clockStopped
deriving DecidableEq, Repr

/-- The three signal inputs (R34): channel 0 steer, 1 throttle, 2 update. -/
inductive Channel where
  | steer | thr | upd
deriving DecidableEq, Repr

/-- One line of a host program (R128, R130): a transaction (any 43-bit word, so that error encodings can be
written), `IDLE n`, `IN ch=v`, or `@k`. -/
inductive Line where
  | present (t : Txn)
  | idle (n : Nat)
  | setInput (c : Channel) (v : Bool)
  | startAt (k : Nat)
deriving DecidableEq, Repr

/-- The pseudo-instructions (R129). -/
inductive Pseudo where
  | idle (n : Nat)
  | start (d : Word)
  | wrFrame (w0 w1 w2 w3 : Word)
  | rdTime
  | rdLast
  | steering
  | throttle
  | expired
  | clrEv (m : Word)
deriving DecidableEq, Repr

end Sys2Proof
end

