-- ==== Sys2Proof/Config.lean ====
section
/-! DEFINITION. What an implementation fixes (00_scope.md R6) and the free values of the model.

A `Config` is plain data: the step reads it and no step changes it, and every statement is about every `Config`, so a
parameter the spec leaves OPEN is an argument of the model (R6). TERM (R13) is no field: the block gives it no
meaning, and the host functions that use it take it as an argument (`Term`). -/

namespace Sys2Proof

/-- The order in which a word's bits leave `dout` (R201, 90_conflicts.md C1). -/
inductive BitOrder where
  | lsbFirst
  | msbFirst
deriving DecidableEq, Repr

/-- The parameters of R6 that the block depends on. T1, T2, T3, PULL_BITS and FIFO_DEPTH are parameters with the
spec's values as defaults (93_implementation_defined.md row 11). -/
structure Config where
  /-- T1: encoder cycles of the assert time. -/
  t1 : Nat := 8
  /-- T2: encoder cycles between a one's and a zero's falling edge. -/
  t2 : Nat := 6
  /-- T3: encoder cycles of the deassert tail. -/
  t3 : Nat := 8
  /-- PULL_BITS: bits serialized per word. -/
  pullBits : Nat := 24
  /-- FIFO_DEPTH, 1..255. -/
  fifoDepth : Nat := 4
  /-- BIT_ORDER. -/
  bitOrder : BitOrder := .lsbFirst
  /-- RESET_PERIODS, OPEN, 1..65535: bit periods of a gap. -/
  resetPeriods : Nat
  /-- SYS_CLK_HZ, OPEN: sys cycles a second. -/
  sysClkHz : Nat
  /-- CAP_DIV, OPEN, 1..2^16: sys cycles per capture tick. -/
  capDiv : Nat
  /-- TIME_DIV, OPEN, 1..2^16: sys cycles per time tick. -/
  timeDiv : Nat
deriving DecidableEq, Repr

/-- The names under which a configuration is refused (R7: "A model refuses, by name, a configuration outside these
ranges"). -/
inductive ConfigProblem where
  | t1IsZero | t2IsZero | t3IsZero
  | pullBitsOutOfRange | fifoDepthOutOfRange | resetPeriodsOutOfRange
  | capDivOutOfRange | timeDivOutOfRange | wdtThresholdTooLarge
deriving DecidableEq, Repr

namespace Config

/-- The configuration that `State.reset` carries. DESIGN CHOICE (log entry 1, unsafe): the OPEN parameters have no value
in the spec. SYS_CLK_HZ is R6's example, TIME_DIV makes the recommended 1 MHz time tick, CAP_DIV the 1 microsecond tick that
D29 mentions, RESET_PERIODS is the least legal value. No statement rests on these values. -/
def chosen : Config := { resetPeriods := 1, sysClkHz := 125000000, capDiv := 125, timeDiv := 125 }

/-- FREE VALUE (log entry 2): the inputs of a cycle that no stimulus lists. R90 and R246 give the inputs no law, so
nothing is known of them; the argument counts the cycles of the run. -/
opaque freeInputs : Nat → Inputs

/-- FREE VALUE (log entry 3): the host port's outputs in a cycle with `rst = 1` (R340, R357: unspecified, free draws);
the argument counts the cycles of the run. -/
opaque freeResponse : Nat → PortOut

/-- WDT_TIMEOUT_MS (R6). -/
def wdtTimeoutMs : Nat := 100

/-- BIT_RATE_HZ (R6), the host-side target. -/
def bitRateHz : Nat := 871000

end Config

/-- The terminator TERM[0..2] (R13): OPEN, so always an argument. -/
structure Term where
  term0 : Word
  term1 : Word
  term2 : Word
deriving DecidableEq, Repr

end Sys2Proof
end

