-- ==== Sys2Proof/Decode.lean ====
section
/-! DEFINITION. The transaction encoding (30_encoding.md): the fields of a transaction word, decoding it in the check
order of 20_memory.md R92, and the encoder, which is written from the KEY column of R124 and shares no table with the
decoder. -/

namespace Sys2Proof

/-- WE, bit 42 of T (R121). -/
def Txn.we (t : Txn) : Bool := t.getLsbD 42

/-- SIZE, bits 41:40 of T (R121). -/
def Txn.size (t : Txn) : BitVec 2 := t.extractLsb' 40 2

/-- ADDR, bits 39:32 of T (R121). -/
def Txn.addr (t : Txn) : Offset := t.extractLsb' 32 8

/-- WDATA, bits 31:0 of T (R121). -/
def Txn.wdata (t : Txn) : Word := t.extractLsb' 0 32

/-- KEY = T[42:32] (R121). -/
def Txn.key (t : Txn) : BitVec 11 := t.extractLsb' 32 11

/-- The transaction word that the port's inputs form (R121). -/
def PortIn.word (p : PortIn) : Txn := (BitVec.ofBool p.we ++ p.size ++ p.addr ++ p.wdata).setWidth 43

/-- The port inputs that present the transaction word `t`. -/
def PortIn.ofWord (t : Txn) : PortIn :=
  { sel := true, we := t.we, size := t.size, addr := t.addr, wdata := t.wdata }

/-- The offset of a register (R35). -/
def Reg.offset : Reg → Offset
  | .ctrl => 0x00 | .status => 0x04 | .events => 0x08 | .clkdiv => 0x0C | .txfifo => 0x10
  | .steerWidth => 0x14 | .thrWidth => 0x18 | .steerCnt => 0x1C | .thrCnt => 0x20
  | .timeLo => 0x24 | .timeHi => 0x28 | .lastLo => 0x2C | .lastHi => 0x30
  | .wdtThresh => 0x34 | .wdt => 0x38 | .param0 => 0x3C | .param1 => 0x40 | .buserr => 0x44

/-- The registers of the map, in the order of their offsets (R35). -/
def Reg.all : List Reg :=
  [.ctrl, .status, .events, .clkdiv, .txfifo, .steerWidth, .thrWidth, .steerCnt, .thrCnt,
   .timeLo, .timeHi, .lastLo, .lastHi, .wdtThresh, .wdt, .param0, .param1, .buserr]

/-- The register at an offset, if the map has one there (R35, R93). -/
def Reg.ofOffset (a : Offset) : Option Reg := Reg.all.find? (fun r => r.offset == a)

/-- The read transaction of a register; `none` for the write-only TXFIFO (R94). -/
def Reg.read : Reg → Option Instr
  | .ctrl => some .rdCtrl | .status => some .rdStatus | .events => some .rdEvents | .clkdiv => some .rdClkdiv
  | .txfifo => none
  | .steerWidth => some .rdSteerWidth | .thrWidth => some .rdThrWidth
  | .steerCnt => some .rdSteerCnt | .thrCnt => some .rdThrCnt
  | .timeLo => some .rdTimeLo | .timeHi => some .rdTimeHi | .lastLo => some .rdLastLo | .lastHi => some .rdLastHi
  | .wdtThresh => some .rdWdtThresh | .wdt => some .rdWdt
  | .param0 => some .rdParam0 | .param1 => some .rdParam1 | .buserr => some .rdBuserr

/-- The write transaction of a register; `none` for the read-only registers (R94). -/
def Reg.write : Reg → Word → Option Instr
  | .ctrl, v => some (.wrCtrl v) | .events, v => some (.wrEvents v) | .clkdiv, v => some (.wrClkdiv v)
  | .txfifo, v => some (.wrTxfifo v) | .buserr, v => some (.wrBuserr v)
  | .status, _ => none | .steerWidth, _ => none | .thrWidth, _ => none | .steerCnt, _ => none | .thrCnt, _ => none
  | .timeLo, _ => none | .timeHi, _ => none | .lastLo, _ => none | .lastHi, _ => none
  | .wdtThresh, _ => none | .wdt, _ => none | .param0, _ => none | .param1, _ => none

/-- Decoding a transaction word: the common checks of R92 in their order, each naming its cause, then the row. No state
changes how a word decodes (R127). -/
def decode (t : Txn) : Decoded :=
  if t.addr.extractLsb' 0 2 ≠ 0 then .error .misaligned
  else if t.size ≠ 2 then .error .size
  else
    match Reg.ofOffset t.addr with
    | none => .error .unmapped
    | some r =>
      match (if t.we then r.write t.wdata else r.read) with
      | none => .error .access
      | some i => .ok i

/-- The KEY of each legal transaction, copied from R124. -/
def Instr.key : Instr → BitVec 11
  | .rdCtrl => 0x200 | .wrCtrl _ => 0x600 | .rdStatus => 0x204 | .rdEvents => 0x208 | .wrEvents _ => 0x608
  | .rdClkdiv => 0x20C | .wrClkdiv _ => 0x60C | .wrTxfifo _ => 0x610
  | .rdSteerWidth => 0x214 | .rdThrWidth => 0x218 | .rdSteerCnt => 0x21C | .rdThrCnt => 0x220
  | .rdTimeLo => 0x224 | .rdTimeHi => 0x228 | .rdLastLo => 0x22C | .rdLastHi => 0x230
  | .rdWdtThresh => 0x234 | .rdWdt => 0x238 | .rdParam0 => 0x23C | .rdParam1 => 0x240
  | .rdBuserr => 0x244 | .wrBuserr _ => 0x644

/-- The WDATA of each transaction: the operand of a write; a read's "should be 0" (R121). -/
def Instr.wdata : Instr → Word
  | .wrCtrl v => v | .wrEvents v => v | .wrClkdiv v => v | .wrTxfifo v => v | .wrBuserr v => v
  | .rdCtrl => 0 | .rdStatus => 0 | .rdEvents => 0 | .rdClkdiv => 0 | .rdSteerWidth => 0 | .rdThrWidth => 0
  | .rdSteerCnt => 0 | .rdThrCnt => 0 | .rdTimeLo => 0 | .rdTimeHi => 0 | .rdLastLo => 0 | .rdLastHi => 0
  | .rdWdtThresh => 0 | .rdWdt => 0 | .rdParam0 => 0 | .rdParam1 => 0 | .rdBuserr => 0

/-- The transaction word of an instruction, KEY then WDATA (R124, R131). -/
def encode (i : Instr) : Txn := (i.key ++ i.wdata).setWidth 43

/-- The instruction that the decoder reads from a table word of `nbits` bits. T has 43 bits and is presented whole, so
a number that does not fit is no transaction word. -/
def decodeTableWord (nbits w : Nat) : Option Instr :=
  let n := w % 2 ^ nbits
  if n < 2 ^ 43 then
    match decode (BitVec.ofNat 43 n) with
    | .ok i => some i
    | .error _ => none
  else none

end Sys2Proof
end

