-- ==== Sys2Proof/Machine/Params.lean ====
section
/-! DEFINITION. The parameters of 00_scope.md R6 that are computed from others. -/

namespace Sys2Proof

/-- BIT_CYCLES = T1 + T2 + T3 (R6). -/
def Config.bitCycles (c : Config) : Nat := c.t1 + c.t2 + c.t3

/-- RESET_CYCLES = RESET_PERIODS × BIT_CYCLES (R6). -/
def Config.resetCycles (c : Config) : Nat := c.resetPeriods * c.bitCycles

/-- WDT_THRESHOLD_TICKS = floor(WDT_TIMEOUT_MS × TIME_HZ / 1000) with the rational TIME_HZ = SYS_CLK_HZ / TIME_DIV
(R6, R50): one floor, at the end. -/
def Config.wdtThreshold (c : Config) : Nat := Config.wdtTimeoutMs * c.sysClkHz / (1000 * c.timeDiv)

/-- The encoder cycles of the longest unit, `U = max(PULL_BITS × BIT_CYCLES, RESET_CYCLES)` (R193). -/
def Config.longestUnit (c : Config) : Nat := max (c.pullBits * c.bitCycles) c.resetCycles

end Sys2Proof
end

