-- ==== Sys2Proof/WellFormed.lean ====
section
/-! DEFINITION. What is well formed: a configuration within the ranges of 00_scope.md R6 and R7, and a transaction word
that is legal (30_encoding.md R121, R125). The legality of a word is said here from R125's conditions on the numbers, apart
from the decoder's register table. Every term of `Instr` is well formed: a write's operand is any 32-bit word. -/

namespace Sys2Proof

/-- The first range of R6 and R7 that a configuration breaks, by name. The range of PULL_BITS is DEDUCED (log entry 4):
`osr` has 32 bits and `bitidx` 5 (R57). -/
def Config.problem (c : Config) : Option ConfigProblem :=
  if c.t1 < 1 then some .t1IsZero
  else if c.t2 < 1 then some .t2IsZero
  else if c.t3 < 1 then some .t3IsZero
  else if c.pullBits < 1 ∨ 32 < c.pullBits then some .pullBitsOutOfRange
  else if c.fifoDepth < 1 ∨ 255 < c.fifoDepth then some .fifoDepthOutOfRange
  else if c.resetPeriods < 1 ∨ 65535 < c.resetPeriods then some .resetPeriodsOutOfRange
  else if c.capDiv < 1 ∨ 65536 < c.capDiv then some .capDivOutOfRange
  else if c.timeDiv < 1 ∨ 65536 < c.timeDiv then some .timeDivOutOfRange
  else if 2 ^ 32 ≤ c.wdtThreshold then some .wdtThresholdTooLarge
  else none

/-- A configuration within every range of R6 and R7. -/
abbrev Config.wellFormed (c : Config) : Bool := c.problem == none

/-- `ADDR[1:0] = 0` (R98). -/
def Txn.aligned (t : Txn) : Bool := t.addr.toNat % 4 == 0

/-- `SIZE = 2` (R99). -/
def Txn.wordSized (t : Txn) : Bool := t.size == 2

/-- The offset is not in 0x48..0xFC (R93). -/
def Txn.mapped (t : Txn) : Bool := t.addr.toNat < 0x48

/-- Neither a WR to an RO offset (0x04, 0x14..0x40) nor an RD of 0x10 (R125). -/
def Txn.permitted (t : Txn) : Bool :=
  if t.we then !(t.addr == 0x04 || (0x14 ≤ t.addr.toNat && t.addr.toNat ≤ 0x40)) else !(t.addr == 0x10)

/-- A legal transaction word: none of R125's error conditions holds. -/
def Txn.wellFormed (t : Txn) : Bool := t.aligned && t.wordSized && t.mapped && t.permitted

/-- Every instruction term is well formed (R122, R126: every operand word is taken). -/
def Instr.wellFormed (i : Instr) : Bool := (encode i).wellFormed

end Sys2Proof
end

