-- ==== Sys2Proof/Machine/State.lean ====
section
/-! DEFINITION. The state of the machine. `Block` is the record S of 10_state.md R61, field by field. `State` holds it
beside the model's own fields: the configuration (a parameter of the step, R61), the host port's outputs of the last cycle,
the environment's inputs of the coming cycles, and the two cycle counts. -/

namespace Sys2Proof.Machine

/-- The state of the frame-to-waveform machine (R57). -/
inductive EncState where
  | idle
  | bit
  | gap
deriving DecidableEq, Repr

/-- The encoder's internal state (R57). -/
structure Encoder where
  /-- `enc_st`. -/
  st : EncState
  /-- `osr`: the word being serialized. -/
  osr : Word
  /-- `bitidx`: the index of the bit being sent. -/
  bitidx : Nat
  /-- `phase`: the encoder cycle within the bit period. -/
  phase : Nat
  /-- `gcnt`: encoder cycles of the gap still to emit, counting the current one. -/
  gcnt : Nat
  /-- `dout_r`: the level driven on `dout`. -/
  dout : Bool
deriving DecidableEq, Repr

/-- One pulse-width channel (R59): its gated counter and its captured width. -/
structure Capture where
  cnt : Half
  width : Half
deriving DecidableEq, Repr

/-- The error record BUSERR (R54). `cause = none` is CAUSE 0. -/
structure BusErr where
  cause : Option BusCause
  ovf : Bool
  addr : Offset
  we : Bool
deriving DecidableEq, Repr

/-- The complete state S of the block (R61). -/
structure Block where
  /-- CTRL.ENC_EN (R37). -/
  encEn : Bool
  /-- CTRL.DEC_EN (R37). -/
  decEn : Bool
  /-- CTRL.WDT_EN (R37). -/
  wdtEn : Bool
  /-- CTRL.IRQ_EN, bit c per channel (R37). -/
  irqEn : BitVec 3
  /-- `cfg_err`, STATUS.CFG_ERR (R38). -/
  cfgErr : Bool
  /-- EVENTS.EV, bit c per channel (R39). -/
  events : BitVec 3
  /-- CLKDIV.INT (R40). -/
  clkInt : BitVec 16
  /-- CLKDIV.FRAC (R40). -/
  clkFrac : BitVec 8
  /-- The transmit queue, oldest first (R56). -/
  fifo : List Word
  /-- The encoder (R57). -/
  enc : Encoder
  /-- `div_acc`, in 1/256 sys cycle (R58). -/
  divAcc : Nat
  /-- `cap_pre` (R58). -/
  capPre : Nat
  /-- `time_pre` (R58). -/
  timePre : Nat
  /-- `sync1[c]` (R59). -/
  sync1 : BitVec 3
  /-- `sync2[c]`, the synchronized levels (R59). -/
  sync2 : BitVec 3
  /-- `sprev[c]` (R59). -/
  sprev : BitVec 3
  /-- `cnt[0]`, `width[0]` (R59). -/
  steer : Capture
  /-- `cnt[1]`, `width[1]` (R59). -/
  thr : Capture
  /-- `time` (R60). -/
  time : Stamp
  /-- `last` (R60). -/
  last : Stamp
  /-- `time_hi_latch` (R60). -/
  timeHiLatch : Word
  /-- `last_hi_latch` (R60). -/
  lastHiLatch : Word
  /-- `last_valid` (R60). -/
  lastValid : Bool
  /-- BUSERR (R54). -/
  busErr : BusErr
deriving DecidableEq, Repr

/-- The machine: the block's record and the model's own fields. -/
structure State where
  /-- The configuration of R6: a parameter of the step, changed by no step. MODEL's own field. -/
  cfg : Config
  /-- The record S of R61. -/
  blk : Block
  /-- The host port's outputs in the cycle executed last (R33). MODEL's own field: they are combinational outputs of that
  cycle, kept so that a read's result can be seen. -/
  out : PortOut
  /-- The inputs of the coming cycles, the next cycle's first (R90). MODEL's own field. Beyond the list the inputs are free
  values (`Config.freeInputs`). -/
  inputs : List Stimulus
  /-- The number of the next cycle: cycle 0 is the first cycle after the last reset cycle (R128, R342). MODEL's own
  field: no hardware function reads it. -/
  cycle : Nat
  /-- How many cycles have been executed in the whole run, reset cycles included: the argument of the free values, so that
  none is drawn twice (log entry 20). MODEL's own field. -/
  elapsed : Nat
deriving DecidableEq, Repr

/-- Why the machine stops with a fault. -/
inductive Fault where
  /-- Raised by the step when the environment stops `clk`: no step happens, and no rule says what survives (R328;
  93_implementation_defined.md row 20: stuck). That the model writes this stuck state as a named fault is DEDUCED (log entry
  12). Safe: the hardware does nothing either. -/
  | clockStopped
deriving DecidableEq, Repr

/-- Why the machine gives no meaning. -/
inductive Refusal where
  /-- An instruction without a meaning yet, by its mnemonic. Raised by no arm of `exec`. Safe. -/
  | notModelled (mnemonic : String)
  /-- Raised by the step when the configuration is outside R6 and R7, with the name of the broken range (R7, R329).
  Safe: the spec has no such block. -/
  | configOutOfRange (p : ConfigProblem)
deriving DecidableEq, Repr

/-- The encoder right after reset (R62). -/
def Encoder.reset : Encoder := { st := .idle, osr := 0, bitidx := 0, phase := 0, gcnt := 0, dout := false }

/-- A channel right after reset (R62). -/
def Capture.reset : Capture := { cnt := 0, width := 0 }

/-- The empty error record (R62, R160). -/
def BusErr.clear : BusErr := { cause := none, ovf := false, addr := 0, we := false }

/-- ResetState: every field of S at the value of R62. -/
def Block.reset : Block :=
  { encEn := false, decEn := false, wdtEn := false, irqEn := 0, cfgErr := false, events := 0
    clkInt := 1, clkFrac := 0, fifo := [], enc := Encoder.reset
    divAcc := 0, capPre := 0, timePre := 0, sync1 := 0, sync2 := 0, sprev := 0
    steer := Capture.reset, thr := Capture.reset
    time := 0, last := 0, timeHiLatch := 0, lastHiLatch := 0, lastValid := false, busErr := BusErr.clear }

/-- The machine right after reset under the configuration `c`: ResetState, at cycle 0 (R342), with no inputs placed. The
value of `out`, before any cycle, is that of a cycle with `sel = 0` (DESIGN CHOICE, log entry 5). -/
def State.resetWith (c : Config) : State :=
  { cfg := c, blk := Block.reset, out := PortOut.okay, inputs := [], cycle := 0, elapsed := 0 }

/-- The machine right after reset (R62, R342). Its configuration is a DESIGN CHOICE (log entry 1). -/
def State.reset : State := State.resetWith Config.chosen

end Sys2Proof.Machine
end

