-- ==== Sys2Proof/Machine/Operands.lean ====
section
/-! DEFINITION. Operand assembly (30_encoding.md R122): the fields that a write takes from WDATA. Reserved bits are ignored
(R36). The helpers that build a read's result from fields (R123) stand here too. -/

namespace Sys2Proof.Machine

/-- ENC_EN request, WDATA[0] of WR CTRL. -/
def ctrlEncReq (v : Word) : Bool := v.getLsbD 0

/-- DEC_EN request, WDATA[1] of WR CTRL. -/
def ctrlDecReq (v : Word) : Bool := v.getLsbD 1

/-- WDT_EN request, WDATA[2] of WR CTRL. -/
def ctrlWdtReq (v : Word) : Bool := v.getLsbD 2

/-- IRQ_EN, WDATA[10:8] of WR CTRL. -/
def ctrlIrqEn (v : Word) : BitVec 3 := v.extractLsb' 8 3

/-- The clear mask, WDATA[2:0] of WR EVENTS. -/
def eventsClear (v : Word) : BitVec 3 := v.extractLsb' 0 3

/-- INT, WDATA[31:16] of WR CLKDIV. -/
def clkdivInt (v : Word) : BitVec 16 := v.extractLsb' 16 16

/-- FRAC, WDATA[15:8] of WR CLKDIV. -/
def clkdivFrac (v : Word) : BitVec 8 := v.extractLsb' 8 8

/-- A narrower value zero-extended to a read result (R123). -/
def zext (v : Half) : Word := v.setWidth 32

/-- The low word of a 64-bit value, `v[31:0]`. -/
def lowWord (v : Stamp) : Word := v.extractLsb' 0 32

/-- The high word of a 64-bit value, `v[63:32]`. -/
def highWord (v : Stamp) : Word := v.extractLsb' 32 32

/-- Byte lane `i` of a port word, bits 8i+7:8i, on a platform that splits it (R97). No rule depends on it. -/
def byteLane (i : Fin 4) (v : Word) : BitVec 8 := v.extractLsb' (8 * i.val) 8

/-- The code of an error cause (R310). -/
def causeCode : BusCause → BitVec 3
  | .misaligned => 1 | .size => 2 | .unmapped => 3 | .access => 4
  | .locked => 5 | .notStarted => 6 | .config => 7

/-- The ENC_STATE code of the machine's state (R38). -/
def encStateCode : EncState → BitVec 2
  | .idle => 0 | .bit => 1 | .gap => 2

end Sys2Proof.Machine
end

