-- ==== Sys2Proof/Machine/Flags.lean ====
section
/-! DEFINITION. The derived flags and outputs of the block: the interrupt line, the queue flags, the watchdog's comparator
(10_state.md R38, R55, R63; 43_watchdog.md R264), and the values that a read of each register returns (R37 to R54). Every
one is a function of the state at the start of the cycle. -/

namespace Sys2Proof.Machine

/-- `irq = ((EVENTS.EV & CTRL.IRQ_EN) != 0)` (R34, R63, R318). -/
def Block.irq (b : Block) : Bool := (b.events &&& b.irqEn) != 0

/-- `dout = dout_r` (R63). -/
def Block.dout (b : Block) : Bool := b.enc.dout

/-- STATUS.TX_EMPTY: `len(fifo) == 0` (R38). -/
def Block.txEmpty (b : Block) : Bool := b.fifo.length == 0

/-- STATUS.TX_FULL: `len(fifo) == FIFO_DEPTH` (R38). -/
def Block.txFull (c : Config) (b : Block) : Bool := b.fifo.length == c.fifoDepth

/-- The comparator Expired(S): strict, unsigned, the difference modulo 2^64 (R264). -/
def Block.expired (c : Config) (b : Block) : Bool :=
  !b.wdtEn || !b.lastValid || decide (c.wdtThreshold < (b.time - b.last).toNat)

/-- The value of CTRL (R150). -/
def Block.ctrlValue (b : Block) : Word :=
  (0#21 ++ b.irqEn ++ 0#5 ++ BitVec.ofBool b.wdtEn ++ BitVec.ofBool b.decEn ++ BitVec.ofBool b.encEn).setWidth 32

/-- ENC_BITIDX: `bitidx` in BIT, else 0 (R38). -/
def Block.encBitidx (b : Block) : BitVec 5 :=
  match b.enc.st with
  | .bit => BitVec.ofNat 5 b.enc.bitidx
  | .idle => 0
  | .gap => 0

/-- The value of STATUS (R152). -/
def Block.statusValue (c : Config) (b : Block) : Word :=
  (0#11 ++ b.encBitidx ++ BitVec.ofNat 8 b.fifo.length ++ 0#2 ++ encStateCode b.enc.st
    ++ BitVec.ofBool b.irq ++ BitVec.ofBool b.cfgErr ++ BitVec.ofBool (b.txFull c) ++ BitVec.ofBool b.txEmpty).setWidth 32

/-- The value of EVENTS (R154). -/
def Block.eventsValue (b : Block) : Word := (0#29 ++ b.events).setWidth 32

/-- The value of CLKDIV (R184). -/
def Block.clkdivValue (b : Block) : Word := (b.clkInt ++ b.clkFrac ++ 0#8).setWidth 32

/-- The value of WDT (R277). -/
def Block.wdtValue (c : Config) (b : Block) : Word :=
  (0#29 ++ BitVec.ofBool b.lastValid ++ BitVec.ofBool b.wdtEn ++ BitVec.ofBool (b.expired c)).setWidth 32

/-- The code in BUSERR.CAUSE: 0 for no record (R310). -/
def BusErr.causeField (e : BusErr) : BitVec 3 :=
  match e.cause with
  | none => 0
  | some c => causeCode c

/-- The value of BUSERR (R158). -/
def BusErr.value (e : BusErr) : Word :=
  (0#15 ++ BitVec.ofBool e.we ++ e.addr ++ 0#4 ++ BitVec.ofBool e.ovf ++ e.causeField).setWidth 32

/-- The value of WDT_THRESH (R274). -/
def wdtThreshValue (c : Config) : Word := BitVec.ofNat 32 c.wdtThreshold

/-- The value of PARAM0 (R156). -/
def param0Value (c : Config) : Word :=
  (BitVec.ofNat 8 c.pullBits ++ BitVec.ofNat 8 c.t3 ++ BitVec.ofNat 8 c.t2 ++ BitVec.ofNat 8 c.t1).setWidth 32

/-- The BIT_ORDER field of PARAM1: 0 LSB_FIRST, 1 MSB_FIRST (R53). -/
def bitOrderField : BitOrder → BitVec 1
  | .lsbFirst => 0
  | .msbFirst => 1

/-- The value of PARAM1 (R157). -/
def param1Value (c : Config) : Word :=
  (BitVec.ofNat 16 c.resetPeriods ++ 0#7 ++ bitOrderField c.bitOrder ++ BitVec.ofNat 8 c.fifoDepth).setWidth 32

end Sys2Proof.Machine
end

