-- ==== Sys2Proof/Machine/Ops.lean ====
section
/-! DEFINITION. The operations that the transactions share: the four ways a presented transaction can end (a read's data, a
completed write, a stall, a bus error) and the pieces of R311. The block has no trap: raising a bus error IS its only
exceptional entry (60_exceptions.md R311), it saves BUSERR and goes nowhere, and the clearing of the record by WR BUSERR
stands for the return ("There is no return from error, because nothing was entered", R314). -/

namespace Sys2Proof.Machine

/-- A successful read that returns `v` and changes no state (R92, R123). -/
def State.readReturns (v : Word) (s : State) : State := { s with out := { ready := true, resp := false, rdata := v } }

/-- A successful read that returns `v` and whose side effect leaves the block as `b` (R100). -/
def State.readWithEffect (v : Word) (b : Block) (s : State) : State :=
  { s with blk := b, out := { ready := true, resp := false, rdata := v } }

/-- A successful write that leaves the block as `b`; it returns `rdata = 0` (R92). -/
def State.writeCompletes (b : Block) (s : State) : State := { s with blk := b, out := PortOut.okay }

/-- A stalled transaction: `ready = 0`, no state changes (R95). That `resp` and `rdata` are 0 meanwhile is DEDUCED (log
entry 6): a stall is no error, and writes return 0. -/
def State.stalls (s : State) : State := { s with out := { ready := false, resp := false, rdata := 0 } }

/-- The error record after an error (R311): the first one is kept, a later one sets OVF. -/
def BusErr.record (c : BusCause) (we : Bool) (addr : Offset) (e : BusErr) : BusErr :=
  match e.cause with
  | none => { cause := some c, ovf := false, addr := addr, we := we }
  | some _ => { e with ovf := true }

/-- `raise BusError(c)` (R311): the transaction's own effects are discarded, BUSERR is updated, `cfg_err` is set if the cause
is ERR_CONFIG, and the response is `ready = 1, resp = 1, rdata = 0`. -/
def State.busError (c : BusCause) (we : Bool) (addr : Offset) (s : State) : State :=
  { s with
    blk := { s.blk with
      busErr := s.blk.busErr.record c we addr
      cfgErr := s.blk.cfgErr || c == .config }
    out := { ready := true, resp := true, rdata := 0 } }

/-- A cycle with `sel = 0`: the port changes nothing, `ready = 1, resp = 0, rdata = 0` (R33). -/
def State.portIdle (s : State) : State := { s with out := PortOut.okay }

end Sys2Proof.Machine
end

