-- ==== Sys2Proof/Machine/EncoderUnit.lean ====
section
/-! DEFINITION. The one-wire timing encoder (41_encoder.md): the clock divider, the frame-to-waveform state machine and the
output level, which are functions of the state at the start of the cycle; then the CLKDIV and TXFIFO transactions. -/

namespace Sys2Proof.Machine

/-- `Dfix = CLKDIV.INT × 256 + CLKDIV.FRAC` (R40, R181). -/
def Block.dfix (b : Block) : Nat := b.clkInt.toNat * 256 + b.clkFrac.toNat

/-- `enc_tick` of this cycle (R181). -/
def Block.encTick (b : Block) : Bool := b.encEn && decide (b.dfix ≤ b.divAcc + 256)

/-- The next `div_acc` (R181). -/
def Block.nextDivAcc (b : Block) : Nat :=
  if b.encEn then
    if b.encTick then b.divAcc + 256 - b.dfix else b.divAcc + 256
  else b.divAcc

/-- SerialBit(osr, i) (R201): the header bits `osr[31:24]` are never sent. -/
def serialBit (c : Config) (w : Word) (i : Nat) : Bool :=
  match c.bitOrder with
  | .lsbFirst => w.getLsbD i
  | .msbFirst => w.getLsbD (c.pullBits - 1 - i)

/-- Level(st, osr, i, p) (R204). -/
def level (c : Config) (st : EncState) (osr : Word) (i p : Nat) : Bool :=
  match st with
  | .idle => false
  | .gap => false
  | .bit => if p < c.t1 then true else if p < c.t1 + c.t2 then serialBit c osr i else false

/-- Part 1 of EncoderStep (R202): the encoder cycle that has just ended is finished. `none` says that a new unit is
needed. -/
def Encoder.finishCycle (c : Config) (e : Encoder) : Option Encoder :=
  match e.st with
  | .bit =>
    if e.phase < c.bitCycles - 1 then some { e with phase := e.phase + 1 }
    else if e.bitidx < c.pullBits - 1 then some { e with phase := 0, bitidx := e.bitidx + 1 }
    else none
  | .gap => if 1 < e.gcnt then some { e with gcnt := e.gcnt - 1 } else none
  | .idle => none

/-- Part 2 of EncoderStep (R202): a new unit from the head of the queue. The zero word starts a gap (R200, R203), any other
word is serialized (R205), and without a word the machine goes IDLE (R207). -/
def Encoder.startUnit (c : Config) (head : Option Word) (e : Encoder) : Encoder :=
  match head with
  | some w =>
    if w = 0 then { e with st := .gap, gcnt := c.resetCycles }
    else { e with st := .bit, osr := w, bitidx := 0, phase := 0 }
  | none => { e with st := .idle }

/-- Part 3 of EncoderStep (R202): the level of the encoder cycle that starts now is driven. -/
def Encoder.drive (c : Config) (e : Encoder) : Encoder := { e with dout := level c e.st e.osr e.bitidx e.phase }

/-- The encoder after a cycle with `enc_tick = 1`, from the queue at the start of that cycle (R202). -/
def Encoder.onTick (c : Config) (fifo : List Word) (e : Encoder) : Encoder :=
  match e.finishCycle c with
  | some e' => e'.drive c
  | none => (e.startUnit c fifo.head?).drive c

/-- The encoder after this cycle: unchanged without a tick (R202). -/
def Block.nextEnc (c : Config) (b : Block) : Encoder := if b.encTick then b.enc.onTick c b.fifo else b.enc

/-- Whether EncoderStep pops the queue in this cycle (R191). -/
def Block.pops (c : Config) (b : Block) : Bool :=
  b.encTick && (b.enc.finishCycle c).isNone && !b.fifo.isEmpty

/-- RD CLKDIV (R184). -/
def execRdClkdiv (s : State) : Host.Outcome State Fault Refusal := .next (s.readReturns s.blk.clkdivValue)

/-- WR CLKDIV (R186): ERR_LOCKED while the encoder runs; INT = 0 is accepted. -/
def execWrClkdiv (v : Word) (s : State) : Host.Outcome State Fault Refusal :=
  if s.blk.encEn then .next (s.busError .locked true Reg.clkdiv.offset)
  else .next (s.writeCompletes { s.blk with clkInt := clkdivInt v, clkFrac := clkdivFrac v })

/-- WR TXFIFO (R190): ERR_NOT_STARTED before the start, a stall while the queue is full (R95), else the word is appended;
the pop of the same cycle, if there is one, is applied by the step (R91). -/
def execWrTxfifo (v : Word) (s : State) : Host.Outcome State Fault Refusal :=
  if !s.blk.encEn then .next (s.busError .notStarted true Reg.txfifo.offset)
  else if s.blk.txFull s.cfg then .next s.stalls
  else .next (s.writeCompletes { s.blk with fifo := s.blk.fifo ++ [v] })

end Sys2Proof.Machine
end

