-- ==== Sys2Proof/Machine/PulseDecoder.lean ====
section
/-! DEFINITION. The PWM pulse-width decoder (42_decoder.md): the capture prescaler, the synchronizers and edge detectors of
all three inputs, the counters and captures of channels 0 and 1; then the width and counter reads. -/

namespace Sys2Proof.Machine

/-- `cap_tick` of this cycle (R231). -/
def Block.capTick (c : Config) (b : Block) : Bool := b.capPre == c.capDiv - 1

/-- The next `cap_pre` (R231). -/
def Block.nextCapPre (c : Config) (b : Block) : Nat := if b.capTick c then 0 else b.capPre + 1

/-- The sampled inputs, bit c for channel c (R34, R232). -/
def inputPins (i : Inputs) : BitVec 3 :=
  (BitVec.ofBool i.upd ++ BitVec.ofBool i.thr ++ BitVec.ofBool i.steer).setWidth 3

/-- `fall[c] = sprev[c] & !sync2[c]`, bit c (R234). -/
def Block.falls (b : Block) : BitVec 3 := b.sprev &&& ~~~b.sync2

/-- Whether channel c captures in this cycle, for c in 0..1 (R236). -/
def Block.captures (b : Block) (c : Nat) : Bool := b.decEn && b.falls.getLsbD c

/-- Whether counter c increments in this cycle (R235). -/
def Block.counts (cfg : Config) (b : Block) (c : Nat) : Bool :=
  b.decEn && !b.falls.getLsbD c && b.capTick cfg && b.sync2.getLsbD c

/-- One channel after this cycle: a capture moves the count to the width and clears it (R236), an increment wraps modulo
2^16 (R235, R238). -/
def Capture.next (captures counts : Bool) (p : Capture) : Capture :=
  if captures then { cnt := 0, width := p.cnt }
  else if counts then { p with cnt := p.cnt + 1 }
  else p

/-- RD STEER_WIDTH (R242). -/
def execRdSteerWidth (s : State) : Host.Outcome State Fault Refusal := .next (s.readReturns (zext s.blk.steer.width))

/-- RD THR_WIDTH (R243). -/
def execRdThrWidth (s : State) : Host.Outcome State Fault Refusal := .next (s.readReturns (zext s.blk.thr.width))

/-- RD STEER_CNT (R244). -/
def execRdSteerCnt (s : State) : Host.Outcome State Fault Refusal := .next (s.readReturns (zext s.blk.steer.cnt))

/-- RD THR_CNT (R245). -/
def execRdThrCnt (s : State) : Host.Outcome State Fault Refusal := .next (s.readReturns (zext s.blk.thr.cnt))

end Sys2Proof.Machine
end

