-- ==== Sys2Proof/Machine/RegisterAccess.lean ====
section
/-! DEFINITION. The control, status, event, parameter and error-register transactions (40_register_access.md). Each meaning
is the transaction's own effect, HostTxn of R92 after the common checks; the cycle's hardware functions are applied by the
step (Machine/Cycle.lean). -/

namespace Sys2Proof.Machine

/-- RD CTRL (R150). -/
def execRdCtrl (s : State) : Host.Outcome State Fault Refusal := .next (s.readReturns s.blk.ctrlValue)

/-- Whether a WR CTRL is a refused encoder start (R151). -/
def startRefused (v : Word) (b : Block) : Bool :=
  ctrlEncReq v && !b.encEn && (b.clkInt == 0 || b.cfgErr)

/-- The block after an accepted WR CTRL: the enables are set-once, IRQ_EN is replaced (R151). -/
def Block.writeCtrl (v : Word) (b : Block) : Block :=
  { b with
    encEn := b.encEn || ctrlEncReq v
    decEn := b.decEn || ctrlDecReq v
    wdtEn := b.wdtEn || ctrlWdtReq v
    irqEn := ctrlIrqEn v }

/-- WR CTRL (R151): a refused start raises ERR_CONFIG (which sets `cfg_err`, R311) and nothing else takes effect. -/
def execWrCtrl (v : Word) (s : State) : Host.Outcome State Fault Refusal :=
  if startRefused v s.blk then .next (s.busError .config true Reg.ctrl.offset)
  else .next (s.writeCompletes (s.blk.writeCtrl v))

/-- RD STATUS (R152). -/
def execRdStatus (s : State) : Host.Outcome State Fault Refusal := .next (s.readReturns (s.blk.statusValue s.cfg))

/-- RD EVENTS (R154): a read does not clear. -/
def execRdEvents (s : State) : Host.Outcome State Fault Refusal := .next (s.readReturns s.blk.eventsValue)

/-- WR EVENTS (R155): write-1-to-clear. The events that the hardware sets in the same cycle are added by the step, so that
the set wins (R91). -/
def execWrEvents (v : Word) (s : State) : Host.Outcome State Fault Refusal :=
  .next (s.writeCompletes { s.blk with events := s.blk.events &&& ~~~(eventsClear v) })

/-- RD PARAM0 (R156). -/
def execRdParam0 (s : State) : Host.Outcome State Fault Refusal := .next (s.readReturns (param0Value s.cfg))

/-- RD PARAM1 (R157). -/
def execRdParam1 (s : State) : Host.Outcome State Fault Refusal := .next (s.readReturns (param1Value s.cfg))

/-- RD BUSERR (R158): a read does not clear. -/
def execRdBuserr (s : State) : Host.Outcome State Fault Refusal := .next (s.readReturns s.blk.busErr.value)

/-- WR BUSERR (R160): clears the whole record, whatever the data. -/
def execWrBuserr (_v : Word) (s : State) : Host.Outcome State Fault Refusal :=
  .next (s.writeCompletes { s.blk with busErr := BusErr.clear })

end Sys2Proof.Machine
end

