-- ==== Sys2Proof/Machine/Watchdog.lean ====
section
/-! DEFINITION. The freshness watchdog (43_watchdog.md): the time prescaler, the time base and the recording of update
edges; then the time, timestamp, threshold and freshness reads. The comparator itself is `Block.expired` (Flags). -/

namespace Sys2Proof.Machine

/-- `time_tick` of this cycle (R260). -/
def Block.timeTick (c : Config) (b : Block) : Bool := b.timePre == c.timeDiv - 1

/-- The next `time_pre` (R260). -/
def Block.nextTimePre (c : Config) (b : Block) : Nat := if b.timeTick c then 0 else b.timePre + 1

/-- The next `time` (R261). -/
def Block.nextTime (c : Config) (b : Block) : Stamp := if b.timeTick c then b.time + 1 else b.time

/-- Whether an update edge is recorded in this cycle (R263). -/
def Block.recordsUpdate (b : Block) : Bool := b.wdtEn && b.falls.getLsbD 2

/-- The next `last`: the value of `time` at the start of a recording cycle (R263). -/
def Block.nextLast (b : Block) : Stamp := if b.recordsUpdate then b.time else b.last

/-- RD TIME_LO (R270): also latches the high word. -/
def execRdTimeLo (s : State) : Host.Outcome State Fault Refusal :=
  .next (s.readWithEffect (lowWord s.blk.time) { s.blk with timeHiLatch := highWord s.blk.time })

/-- RD TIME_HI (R271): the latch. -/
def execRdTimeHi (s : State) : Host.Outcome State Fault Refusal := .next (s.readReturns s.blk.timeHiLatch)

/-- RD LAST_LO (R272): also latches the high word. -/
def execRdLastLo (s : State) : Host.Outcome State Fault Refusal :=
  .next (s.readWithEffect (lowWord s.blk.last) { s.blk with lastHiLatch := highWord s.blk.last })

/-- RD LAST_HI (R273): the latch. -/
def execRdLastHi (s : State) : Host.Outcome State Fault Refusal := .next (s.readReturns s.blk.lastHiLatch)

/-- RD WDT_THRESH (R274). -/
def execRdWdtThresh (s : State) : Host.Outcome State Fault Refusal := .next (s.readReturns (wdtThreshValue s.cfg))

/-- RD WDT (R277). -/
def execRdWdt (s : State) : Host.Outcome State Fault Refusal := .next (s.readReturns (s.blk.wdtValue s.cfg))

end Sys2Proof.Machine
end

