-- ==== Sys2Proof/Machine/Dispatch.lean ====
section
/-! DEFINITION. The meaning of every legal transaction, one arm per constructor (30_encoding.md R124): HostTxn of R92
after the common checks have passed. -/

namespace Sys2Proof.Machine

def exec (i : Instr) (s : State) : Host.Outcome State Fault Refusal :=
  match i with
  | .rdCtrl => Sys2Proof.Machine.execRdCtrl s
  | .wrCtrl v => Sys2Proof.Machine.execWrCtrl v s
  | .rdStatus => Sys2Proof.Machine.execRdStatus s
  | .rdEvents => Sys2Proof.Machine.execRdEvents s
  | .wrEvents v => Sys2Proof.Machine.execWrEvents v s
  | .rdClkdiv => Sys2Proof.Machine.execRdClkdiv s
  | .wrClkdiv v => Sys2Proof.Machine.execWrClkdiv v s
  | .wrTxfifo v => Sys2Proof.Machine.execWrTxfifo v s
  | .rdSteerWidth => Sys2Proof.Machine.execRdSteerWidth s
  | .rdThrWidth => Sys2Proof.Machine.execRdThrWidth s
  | .rdSteerCnt => Sys2Proof.Machine.execRdSteerCnt s
  | .rdThrCnt => Sys2Proof.Machine.execRdThrCnt s
  | .rdTimeLo => Sys2Proof.Machine.execRdTimeLo s
  | .rdTimeHi => Sys2Proof.Machine.execRdTimeHi s
  | .rdLastLo => Sys2Proof.Machine.execRdLastLo s
  | .rdLastHi => Sys2Proof.Machine.execRdLastHi s
  | .rdWdtThresh => Sys2Proof.Machine.execRdWdtThresh s
  | .rdWdt => Sys2Proof.Machine.execRdWdt s
  | .rdParam0 => Sys2Proof.Machine.execRdParam0 s
  | .rdParam1 => Sys2Proof.Machine.execRdParam1 s
  | .rdBuserr => Sys2Proof.Machine.execRdBuserr s
  | .wrBuserr v => Sys2Proof.Machine.execWrBuserr v s

end Sys2Proof.Machine
end

