-- ==== Sys2Proof/Machine/Cycle.lean ====
section
/-! DEFINITION. One sys cycle (20_memory.md R90, R91): the host transaction, then the hardware functions, which all read the
state at the start of the cycle, committed together; and the reset cycle (70_reset_and_hazards.md R340). -/

namespace Sys2Proof.Machine

/-- What the environment does in the k-th coming cycle (0 is the next one): the listed stimulus, else free inputs. -/
def State.stimulusAt (s : State) (k : Nat) : Stimulus :=
  match s.inputs[k]? with
  | some x => x
  | none => .cycle (Config.freeInputs (s.elapsed + k))

/-- What the environment does in the next cycle. -/
def State.stimulus (s : State) : Stimulus := s.stimulusAt 0

/-- HostTxn (R92): nothing for `sel = 0`; an error encoding raises its bus error (R125), with the presented offset and
direction; a legal transaction has its meaning. -/
def hostTxn (p : PortIn) (s : State) : Host.Outcome State Fault Refusal :=
  if p.sel then
    match decode p.word with
    | .ok i => exec i s
    | .error c => .next (s.busError c p.we p.addr)
  else .next s.portIdle

/-- The event bits that the hardware sets in this cycle, `set[c]` in bit c (R236, R263). -/
def Block.eventsSet (b : Block) : BitVec 3 :=
  (BitVec.ofBool b.recordsUpdate ++ BitVec.ofBool (b.captures 1) ++ BitVec.ofBool (b.captures 0)).setWidth 3

/-- The block after the cycle (R90): `b` is the block at the start of the cycle, which every hardware function reads, and
`h` is `b` with HostTxn's assignments. The queue's head goes if the encoder pops (it is `b`'s head: HostTxn only appends),
and the events set by the hardware win over the host's clear (R91). -/
def Block.commit (c : Config) (i : Inputs) (b h : Block) : Block :=
  { h with
    fifo := if b.pops c then h.fifo.tail else h.fifo
    events := h.events ||| b.eventsSet
    enc := b.nextEnc c
    divAcc := b.nextDivAcc
    capPre := b.nextCapPre c
    timePre := b.nextTimePre c
    sync1 := inputPins i
    sync2 := b.sync1
    sprev := b.sync2
    steer := b.steer.next (b.captures 0) (b.counts c 0)
    thr := b.thr.next (b.captures 1) (b.counts c 1)
    time := b.nextTime c
    last := b.nextLast
    lastValid := b.lastValid || b.recordsUpdate }

/-- The machine after a cycle without reset: `s` is the state at its start, `s1` is `s` after HostTxn. -/
def State.commit (i : Inputs) (s s1 : State) : State :=
  { s1 with
    blk := s.blk.commit s.cfg i s1.blk
    inputs := s.inputs.tail
    cycle := s.cycle + 1
    elapsed := s.elapsed + 1 }

/-- The machine after a cycle with `rst = 1` (R340): ResetState, whatever the other inputs are. The response of that cycle
is a free value (R357), and the cycle after it is cycle 0 unless it is a reset cycle too (R342). -/
def State.resetCycle (s : State) : State :=
  { cfg := s.cfg
    blk := Block.reset
    out := Config.freeResponse s.elapsed
    inputs := s.inputs.tail
    cycle := 0
    elapsed := s.elapsed + 1 }

/-- A cycle with the inputs `i` (R90). -/
def runCycle (i : Inputs) (s : State) : Host.Outcome State Fault Refusal :=
  if i.rst then .next s.resetCycle
  else
    match hostTxn i.port s with
    | .next s1 => .next (s.commit i s1)
    | .fault r => .fault r
    | .refused r => .refused r

/-- What happens next: a configuration outside its ranges is refused by name (R7), a stopped clock is a fault (R328), else
the next cycle runs. -/
def advance (s : State) : Host.Outcome State Fault Refusal :=
  match s.cfg.problem with
  | some p => .refused (.configOutOfRange p)
  | none =>
    match s.stimulus with
    | .clockStopped => .fault .clockStopped
    | .cycle i => runCycle i s

/-- The inputs of a cycle that presents the transaction word `t` out of reset, with the signal inputs of the stimulus that
was listed for that cycle, or 0 (R130) if none was. -/
def presenting (t : Txn) (listed : Option Stimulus) : Inputs :=
  match listed with
  | some (.cycle i) => { i with rst := false, port := PortIn.ofWord t }
  | some .clockStopped => { rst := false, port := PortIn.ofWord t, steer := false, thr := false, upd := false }
  | none => { rst := false, port := PortIn.ofWord t, steer := false, thr := false, upd := false }

/-- `s` with the transaction word of the low `nbits` bits of `w` on the port in the next cycle. A number that does not fit
in 43 bits is no transaction word: nothing is presented then. -/
def State.presentWord (s : State) (nbits w : Nat) : State :=
  let n := w % 2 ^ nbits
  if n < 2 ^ 43 then
    { s with inputs := .cycle (presenting (BitVec.ofNat 43 n) s.inputs.head?) :: s.inputs.tail }
  else s

end Sys2Proof.Machine
end

