-- ==== Sys2Proof/Machine/Step.lean ====
section
/-! DEFINITION. The step of the machine: one sys cycle (20_memory.md R90). The block fetches no instruction (R31, R106): its
next transaction is what the host port presents in the next cycle, so `withFetchWord` presents one there. -/

namespace Sys2Proof.Machine

/-- One sys cycle. -/
def step (s : State) : Host.Outcome State Fault Refusal := advance s

/-- `s` with the transaction word `w` presented on the host port in the next cycle (log entry 7). -/
def State.withFetchWord (s : State) (nbits w : Nat) : State := s.presentWord nbits w

end Sys2Proof.Machine
end

