-- ==== Sys2Proof/Machine/HostProtocol.lean ====
section
/-! DEFINITION. The host's side (44_host_protocol.md): ColorWords, frames, the divisor, the consumer queries; and the running
of host programs (30_encoding.md R128 to R130), with the host's duty to present a stalled transaction again (R95, R292 d).
The block does not depend on anything here. -/

namespace Sys2Proof.Machine

/-- `serialize(a, b, c) = {8'hFF, a, b, c}` (R290). -/
def serialize (a b c : BitVec 8) : Word := (0xFF#8 ++ a ++ b ++ c).setWidth 32

/-- The header and the three channels of a ColorWord (R290, "Inverting"). -/
def colorHeader (w : Word) : BitVec 8 := w.extractLsb' 24 8

/-- `a = w[23:16]` (R290). -/
def colorA (w : Word) : BitVec 8 := w.extractLsb' 16 8

/-- `b = w[15:8]` (R290). -/
def colorB (w : Word) : BitVec 8 := w.extractLsb' 8 8

/-- `c = w[7:0]` (R290). -/
def colorC (w : Word) : BitVec 8 := w.extractLsb' 0 8

/-- The seven words of a frame, in queue order: front-left, front-right, rear-right, rear-left, TERM (R291, R292). -/
def frameWords (t : Term) (fl fr rr rl : Word) : List Word := [fl, fr, rr, rl, t.term0, t.term1, t.term2]

/-- `D` of ClkdivFor: the divisor in 1/256 units, rounded down (R294). -/
def clkdivD (sysClkHz bitRateHz bitCycles : Nat) : Nat := sysClkHz * 256 / (bitRateHz * bitCycles)

/-- ClkdivFor (R294): the CLKDIV word, or `none` for the fatal startup error. -/
def clkdivFor (sysClkHz bitRateHz bitCycles : Nat) : Option Word :=
  let d := clkdivD sysClkHz bitRateHz bitCycles
  if d / 256 = 0 ∨ 0xFFFF < d / 256 then none
  else some (BitVec.ofNat 32 ((d / 256) * 2 ^ 16 + (d % 256) * 2 ^ 8))

/-- `steering() -> u16`: the answer in RD STEER_WIDTH's data (R296). -/
def steeringAnswer (rdata : Word) : Half := rdata.extractLsb' 0 16

/-- `throttle() -> u16`: the answer in RD THR_WIDTH's data (R296). -/
def throttleAnswer (rdata : Word) : Half := rdata.extractLsb' 0 16

/-- `has_watchdog_expired() -> bool`: the answer in RD WDT's data (R296). -/
def expiredAnswer (rdata : Word) : Bool := rdata.getLsbD 0

/-- The line that presents a transaction (R128). -/
def lineOf (i : Instr) : Line := .present (encode i)

/-- The lines that write `ws` to TXFIFO in order. -/
def pushLines (ws : List Word) : List Line := ws.map (fun w => lineOf (.wrTxfifo w))

/-- The expansion of a pseudo-instruction (R129). -/
def expandPseudo (t : Term) : Pseudo → List Line
  | .idle n => [.idle n]
  | .start d => [lineOf (.wrClkdiv d), lineOf (.wrCtrl 1)]
  | .wrFrame w0 w1 w2 w3 => pushLines (frameWords t w0 w1 w2 w3)
  | .rdTime => [lineOf .rdTimeLo, lineOf .rdTimeHi]
  | .rdLast => [lineOf .rdLastLo, lineOf .rdLastHi]
  | .steering => [lineOf .rdSteerWidth]
  | .throttle => [lineOf .rdThrWidth]
  | .expired => [lineOf .rdWdt]
  | .clrEv m => [lineOf (.wrEvents m)]

/-- The signal inputs, held until the next `IN` (R130). -/
structure Levels where
  steer : Bool
  thr : Bool
  upd : Bool
deriving DecidableEq, Repr

/-- Every input is 0 from cycle 0 unless set (R130). -/
def Levels.low : Levels := { steer := false, thr := false, upd := false }

/-- `IN ch=v` (R130). -/
def Levels.set (c : Channel) (v : Bool) (l : Levels) : Levels :=
  match c with
  | .steer => { l with steer := v }
  | .thr => { l with thr := v }
  | .upd => { l with upd := v }

/-- The inputs of a cycle of a program. -/
def Levels.inputs (p : PortIn) (l : Levels) : Inputs :=
  { rst := false, port := p, steer := l.steer, thr := l.thr, upd := l.upd }

/-- One cycle of a program: the step with these inputs in the next cycle. -/
def State.stepWith (i : Inputs) (s : State) : Host.Outcome State Fault Refusal :=
  step { s with inputs := [.cycle i] }

/-- A host program (R128 to R130), with the responses of its completed transactions in order. Each transaction occupies the
cycles until it completes: a stalled one is presented again, unchanged (R95). `@k` fills the gap before cycle k, numbered
from the last reset (R128, `State.cycle`), with `IDLE`, and a program whose earlier lines end later is ill formed. DESIGN
CHOICE (log entry 22): an `IN` that stands before `@k` holds from the first cycle of that gap. `none` says: ill formed, not
finished within `fuel` cycles and lines, or the machine stopped (log entry 21). -/
def runProgram : Nat → Levels → List Line → State → Option (State × List PortOut)
  | _, _, [], s => some (s, [])
  | 0, _, _ :: _, _ => none
  | fuel + 1, l, .present t :: rest, s =>
    match s.stepWith (l.inputs (PortIn.ofWord t)) with
    | .next s' =>
      if s'.out.ready then (runProgram fuel l rest s').map (fun p => (p.1, s'.out :: p.2))
      else runProgram fuel l (.present t :: rest) s'
    | .fault _ => none
    | .refused _ => none
  | fuel + 1, l, .idle 0 :: rest, s => runProgram fuel l rest s
  | fuel + 1, l, .idle (n + 1) :: rest, s =>
    match s.stepWith (l.inputs PortIn.idle) with
    | .next s' => runProgram fuel l (.idle n :: rest) s'
    | .fault _ => none
    | .refused _ => none
  | fuel + 1, l, .setInput c v :: rest, s => runProgram fuel (l.set c v) rest s
  | fuel + 1, l, .startAt k :: rest, s =>
    if s.cycle = k then runProgram fuel l rest s
    else if s.cycle < k then
      match s.stepWith (l.inputs PortIn.idle) with
      | .next s' => runProgram fuel l (.startAt k :: rest) s'
      | .fault _ => none
      | .refused _ => none
    else none

end Sys2Proof.Machine
end

