-- ==== Sys2Proof/Safety.lean ====
section
/-! DEFINITION. The terms that statements about runs are made of: running a number of cycles, cycles without reset, and the
invariant of the block (the ranges of 10_state.md R57, R58 and R61, the derived invariants of R192, R153, R181, R204, R209,
R237, and what follows from them). -/

namespace Sys2Proof.Machine

/-- The machine after `n` steps, or the stop that ended the run. -/
def State.after : Nat → State → Host.Outcome State Fault Refusal
  | 0, s => .next s
  | n + 1, s =>
    match step s with
    | .next t => t.after n
    | .fault r => .fault r
    | .refused r => .refused r

/-- The next cycle of `s` runs with the inputs `i`, and it is no reset cycle. -/
structure RunsCycle (s : State) (i : Inputs) : Prop where
  /-- The configuration is within its ranges (R7). -/
  cfgOk : s.cfg.problem = none
  /-- The environment gives a clock cycle with the inputs `i`. -/
  stimulus : s.stimulus = .cycle i
  /-- `rst = 0`. -/
  noReset : i.rst = false

/-- The inputs `i` present the legal transaction `ins`. -/
structure Presents (i : Inputs) (ins : Instr) : Prop where
  selected : i.port.sel = true
  decodes : decode i.port.word = .ok ins

/-- In each of the next `n` cycles the clock runs and `rst = 0`. -/
def Undisturbed (n : Nat) (s : State) : Prop :=
  ∀ k, k < n → ∃ i, s.stimulusAt k = .cycle i ∧ i.rst = false

/-- In how many of the next `n` cycles the start state satisfies `p`. -/
def countCycles (p : State → Bool) : Nat → State → Nat
  | 0, _ => 0
  | n + 1, s =>
    (if p s then 1 else 0) +
      match step s with
      | .next t => countCycles p n t
      | .fault _ => 0
      | .refused _ => 0

/-- Every state that the next `n` cycles start from satisfies `p`. -/
def Throughout (p : State → Prop) (n : Nat) (s : State) : Prop :=
  ∀ k, k < n → ∀ u, s.after k = .next u → p u

/-- The invariant of the block: what holds at reset and is kept by every step. -/
structure Inv (s : State) : Prop where
  /-- The configuration is within its ranges (R7). -/
  cfgOk : s.cfg.problem = none
  /-- `len(fifo) ≤ FIFO_DEPTH` (R56, R192). -/
  fifoBound : s.blk.fifo.length ≤ s.cfg.fifoDepth
  /-- A word is queued only after the start (R192). -/
  fifoStarted : s.blk.encEn = false → s.blk.fifo = []
  /-- CTRL.ENC_EN and `cfg_err` are never both 1 (R153). -/
  exclusive : s.blk.encEn = true → s.blk.cfgErr = false
  /-- CTRL.ENC_EN = 1 implies CLKDIV.INT ≥ 1 (R181). -/
  divisorLegal : s.blk.encEn = true → 1 ≤ s.blk.clkInt.toNat
  /-- `div_acc < Dfix` while the divider runs (R58, R181). -/
  divAccBound : s.blk.encEn = true → s.blk.divAcc < s.blk.dfix
  /-- `div_acc` is 0 until the start (R181). -/
  divAccStopped : s.blk.encEn = false → s.blk.divAcc = 0
  /-- `bitidx < PULL_BITS` (R57). -/
  bitidxBound : s.blk.enc.bitidx < s.cfg.pullBits
  /-- `phase < BIT_CYCLES` (R57). -/
  phaseBound : s.blk.enc.phase < s.cfg.bitCycles
  /-- `gcnt ≤ RESET_CYCLES` (R57). -/
  gcntBound : s.blk.enc.gcnt ≤ s.cfg.resetCycles
  /-- In GAP the current encoder cycle is still to be counted (R203). -/
  gcntInGap : s.blk.enc.st = .gap → 1 ≤ s.blk.enc.gcnt
  /-- Until the start the machine is IDLE (R209). -/
  encStopped : s.blk.encEn = false → s.blk.enc.st = .idle
  /-- `dout_r` is the level of the current encoder cycle (R202, R204). -/
  doutLevel : s.blk.enc.dout = level s.cfg s.blk.enc.st s.blk.enc.osr s.blk.enc.bitidx s.blk.enc.phase
  /-- `cap_pre < CAP_DIV` (R58). -/
  capPreBound : s.blk.capPre < s.cfg.capDiv
  /-- `time_pre < TIME_DIV` (R58). -/
  timePreBound : s.blk.timePre < s.cfg.timeDiv
  /-- While DEC_EN = 0 the counters and widths are 0 and no capture event is set (R237). -/
  decoderOff : s.blk.decEn = false →
    s.blk.steer = Capture.reset ∧ s.blk.thr = Capture.reset ∧
      s.blk.events.getLsbD 0 = false ∧ s.blk.events.getLsbD 1 = false
  /-- While WDT_EN = 0 nothing was recorded (R276). -/
  watchdogOff : s.blk.wdtEn = false → s.blk.lastValid = false ∧ s.blk.events.getLsbD 2 = false
  /-- `last` is 0 until it is valid (R62, R263). -/
  lastInvalid : s.blk.lastValid = false → s.blk.last = 0
  /-- Without a record, BUSERR is 0 as a whole (R54, R311). -/
  errorRecord : s.blk.busErr.cause = none → s.blk.busErr = BusErr.clear

end Sys2Proof.Machine
end

