-- ==== Sys2Proof/Certificates/Slice0/Obligations.lean ====
section
/-! DEFINITION. The statements for the provers. They say what the rules of the spec say, in terms of `decode`, `encode`,
`exec`, `hostTxn`, `runCycle`, `step` and runs of it. A statement `exec i s = .next { s with … }` is at once the result, the
completion and the frame of the transaction: every field not named in the update is unchanged. -/

open Sys2Proof Sys2Proof.Machine

/-- The rows of R124: each KEY with the transaction it selects for a WDATA word. -/
def Sys2Proof.keyRows : List (BitVec 11 × (Word → Instr)) :=
  [(0x200, fun _ => .rdCtrl), (0x600, .wrCtrl), (0x204, fun _ => .rdStatus), (0x208, fun _ => .rdEvents),
   (0x608, .wrEvents), (0x20C, fun _ => .rdClkdiv), (0x60C, .wrClkdiv), (0x610, .wrTxfifo),
   (0x214, fun _ => .rdSteerWidth), (0x218, fun _ => .rdThrWidth), (0x21C, fun _ => .rdSteerCnt),
   (0x220, fun _ => .rdThrCnt), (0x224, fun _ => .rdTimeLo), (0x228, fun _ => .rdTimeHi), (0x22C, fun _ => .rdLastLo),
   (0x230, fun _ => .rdLastHi), (0x234, fun _ => .rdWdtThresh), (0x238, fun _ => .rdWdt), (0x23C, fun _ => .rdParam0),
   (0x240, fun _ => .rdParam1), (0x244, fun _ => .rdBuserr), (0x644, .wrBuserr)]

/-! ## Encoding -/

/-- Decoding an encoded transaction gives it back, whatever its operand (R121, R122, R124). -/
def Obligations.DecodeOfEncode : Prop := ∀ i : Instr, decode (encode i) = .ok i

/-- A decoded word has the KEY of its row; a write is encoded by exactly the word it was decoded from, so no operand bit is
dropped (R121, R122). -/
def Obligations.EncodeOfDecode : Prop :=
  ∀ (t : Txn) (i : Instr), decode t = .ok i → (encode i).key = t.key ∧ (t.we = true → encode i = t)

/-- R124: a row is selected by the equality of its KEY with T[42:32], and every KEY outside the table is an error. -/
def Obligations.KeySelectsRow : Prop :=
  ∀ t : Txn,
    (∀ r ∈ keyRows, t.key = r.1 → decode t = .ok (r.2 t.wdata)) ∧
    ((∀ r ∈ keyRows, t.key ≠ r.1) → ∃ c, decode t = .error c)

/-- R125, R312: an error encoding is classified by the first condition that holds. -/
def Obligations.ErrorEncodingClassified : Prop :=
  ∀ t : Txn,
    (t.addr.toNat % 4 ≠ 0 → decode t = .error .misaligned) ∧
    (t.addr.toNat % 4 = 0 → t.size.toNat ≠ 2 → decode t = .error .size) ∧
    (t.addr.toNat % 4 = 0 → t.size.toNat = 2 → 0x48 ≤ t.addr.toNat → decode t = .error .unmapped) ∧
    (t.addr.toNat % 4 = 0 → t.size.toNat = 2 → t.we = true →
      (t.addr.toNat = 0x04 ∨ (0x14 ≤ t.addr.toNat ∧ t.addr.toNat ≤ 0x40)) → decode t = .error .access) ∧
    (t.addr.toNat % 4 = 0 → t.size.toNat = 2 → t.we = false → t.addr.toNat = 0x10 → decode t = .error .access)

/-- A word is legal exactly when it decodes to a transaction (R121, R125). -/
def Obligations.LegalWordsDecode : Prop :=
  ∀ t : Txn, t.wellFormed = true ↔ ∃ i, decode t = .ok i

/-- A few words written out from R124 and R131 decode to the transactions they stand for. -/
def Obligations.SpecWordsDecode : Prop :=
  decode 0x60000000001#43 = .ok (.wrCtrl 1) ∧ decode 0x23800000000#43 = .ok .rdWdt ∧
  decode 0x610FF000001#43 = .ok (.wrTxfifo 0xFF000001) ∧ decode 0x60C00068500#43 = .ok (.wrClkdiv 0x00068500) ∧
  decode 0x21400000000#43 = .ok .rdSteerWidth ∧ decode 0x50E00001234#43 = .error .misaligned ∧
  decode 0x05000000000#43 = .error .size ∧ decode 0x24800000000#43 = .error .unmapped ∧
  decode 0x21000000000#43 = .error .access

/-! ## The cycle -/

/-- A step runs the decoded transaction (R90, R92): the next state is the meaning's, with the cycle's hardware functions
committed over it. -/
def Obligations.StepRunsDecodedTransaction : Prop :=
  ∀ (s s1 : State) (i : Inputs) (ins : Instr),
    RunsCycle s i → Presents i ins → exec ins s = .next s1 → step s = .next (s.commit i s1)

/-- With a legal configuration and a running clock a step always gives a next state: a bus error, a stall or a reset is an
ordinary step (R329). The second clause is the MODEL's choice (log entry 12, DEDUCED): the spec calls a stopped clock stuck,
no step happening (R328; 93_implementation_defined.md row 20), and the model writes that as a named fault. -/
def Obligations.RunningClockNeverStops : Prop :=
  ∀ s : State, s.cfg.problem = none →
    (∀ i : Inputs, s.stimulus = .cycle i → ∃ t, step s = .next t ∧ t.cfg = s.cfg) ∧
    (s.stimulus = .clockStopped → step s = .fault .clockStopped)

/-- A configuration outside its ranges is refused by the name of the range (R7, R329). The range of PULL_BITS is the model's
(log entry 4). -/
def Obligations.BadConfigurationRefused : Prop :=
  (∀ (s : State) (p : ConfigProblem), s.cfg.problem = some p → step s = .refused (.configOutOfRange p)) ∧
  ∀ c : Config, c.problem = none ↔
    (1 ≤ c.t1 ∧ 1 ≤ c.t2 ∧ 1 ≤ c.t3 ∧ 1 ≤ c.pullBits ∧ c.pullBits ≤ 32 ∧ 1 ≤ c.fifoDepth ∧ c.fifoDepth ≤ 255 ∧
      1 ≤ c.resetPeriods ∧ c.resetPeriods ≤ 65535 ∧ 1 ≤ c.capDiv ∧ c.capDiv ≤ 65536 ∧
      1 ≤ c.timeDiv ∧ c.timeDiv ≤ 65536 ∧ 100 * c.sysClkHz / (1000 * c.timeDiv) < 2 ^ 32)

/-- R340, R341, R357, R62: a cycle with `rst = 1` gives ResetState from any state and with any other inputs, every element
with the value that R62's table writes; the transaction presented in it has no effect. The next cycle is cycle 0 (R342). -/
def Obligations.ResetCycleGivesResetState : Prop :=
  ∀ (s : State) (i : Inputs), s.cfg.problem = none → s.stimulus = .cycle i → i.rst = true →
    ∃ t, step s = .next t ∧ t.blk = Block.reset ∧ t.cfg = s.cfg ∧ t.blk.dout = false ∧ t.blk.irq = false ∧ t.cycle = 0 ∧
      t.blk = {
        encEn := false, decEn := false, wdtEn := false, irqEn := 0#3, cfgErr := false, events := 0#3
        clkInt := 1#16, clkFrac := 0#8, fifo := []
        enc := { st := .idle, osr := 0#32, bitidx := 0, phase := 0, gcnt := 0, dout := false }
        divAcc := 0, capPre := 0, timePre := 0, sync1 := 0#3, sync2 := 0#3, sprev := 0#3
        steer := { cnt := 0#16, width := 0#16 }, thr := { cnt := 0#16, width := 0#16 }
        time := 0#64, last := 0#64, timeHiLatch := 0#32, lastHiLatch := 0#32, lastValid := false
        busErr := { cause := none, ovf := false, addr := 0#8, we := false } }

/-- R128, R342: cycles are numbered from 0, the first cycle after the last reset cycle, wherever in a run the reset is. -/
def Obligations.CyclesAreNumberedFromReset : Prop :=
  ∀ (n : Nat) (s u t : State) (i : Inputs), s.stimulus = .cycle i → i.rst = true → step s = .next u →
    Undisturbed n u → u.after n = .next t → u.cycle = 0 ∧ t.cycle = n

/-- R344: what each read returns right after reset, under every configuration with the source's T1, T2, T3 and
PULL_BITS. -/
def Obligations.ReadsAfterReset : Prop :=
  ∀ c : Config, c.t1 = 8 → c.t2 = 6 → c.t3 = 8 → c.pullBits = 24 → c.problem = none →
    let s := State.resetWith c
    let returns (i : Instr) (n : Nat) : Prop :=
      ∃ t, exec i s = .next t ∧ t.out.ready = true ∧ t.out.resp = false ∧ t.out.rdata.toNat = n
    returns .rdCtrl 0 ∧ returns .rdStatus 1 ∧ returns .rdEvents 0 ∧ returns .rdClkdiv 0x00010000 ∧
    returns .rdSteerWidth 0 ∧ returns .rdThrWidth 0 ∧ returns .rdSteerCnt 0 ∧ returns .rdThrCnt 0 ∧
    returns .rdTimeLo 0 ∧ returns .rdTimeHi 0 ∧ returns .rdLastLo 0 ∧ returns .rdLastHi 0 ∧
    returns .rdWdtThresh (100 * c.sysClkHz / (1000 * c.timeDiv)) ∧ returns .rdWdt 1 ∧ returns .rdParam0 0x18080608 ∧
    (c.bitOrder = .lsbFirst → c.fifoDepth = 4 → returns .rdParam1 (c.resetPeriods * 65536 + 4)) ∧
    returns .rdBuserr 0

/-- R33, R92: a cycle with `sel = 0` answers `ready = 1, resp = 0, rdata = 0`, and the port changes nothing: the elements that
only HostTxn writes (R91) keep their values, nothing is appended to the queue and no event is cleared. -/
def Obligations.IdlePortChangesNothing : Prop :=
  ∀ (s : State) (i : Inputs), RunsCycle s i → i.port.sel = false →
    ∃ t, step s = .next t ∧ t.out = { ready := true, resp := false, rdata := 0 } ∧
      t.blk.encEn = s.blk.encEn ∧ t.blk.decEn = s.blk.decEn ∧ t.blk.wdtEn = s.blk.wdtEn ∧ t.blk.irqEn = s.blk.irqEn ∧
      t.blk.cfgErr = s.blk.cfgErr ∧ t.blk.clkInt = s.blk.clkInt ∧ t.blk.clkFrac = s.blk.clkFrac ∧
      t.blk.timeHiLatch = s.blk.timeHiLatch ∧ t.blk.lastHiLatch = s.blk.lastHiLatch ∧ t.blk.busErr = s.blk.busErr ∧
      t.blk.fifo = (if s.blk.pops s.cfg then s.blk.fifo.tail else s.blk.fifo) ∧
      ∀ c, s.blk.events.getLsbD c = true → t.blk.events.getLsbD c = true

/-- R91, first row: `fifo' = (pop ? tail(fifo) : fifo) ++ (push ? [wdata] : [])`, whatever transaction the cycle has. -/
def Obligations.QueueTakesPushAndPop : Prop :=
  ∀ (s : State) (i : Inputs) (ins : Instr), RunsCycle s i → Presents i ins →
    ∃ t, step s = .next t ∧
      t.blk.fifo = (if s.blk.pops s.cfg then s.blk.fifo.tail else s.blk.fifo) ++
        (match ins with
          | .wrTxfifo w => if s.blk.encEn = true ∧ s.blk.fifo.length ≠ s.cfg.fifoDepth then [w] else []
          | _ => [])

/-- R91, R155: the hardware's set wins over the host's clear of the same cycle. -/
def Obligations.EventSetWinsOverClear : Prop :=
  ∀ (s : State) (i : Inputs) (v : Word), RunsCycle s i → Presents i (.wrEvents v) →
    ∃ t, step s = .next t ∧
      t.blk.events.getLsbD 0 =
        ((s.blk.events.getLsbD 0 && !v.getLsbD 0) || (s.blk.decEn && s.blk.sprev.getLsbD 0 && !s.blk.sync2.getLsbD 0)) ∧
      t.blk.events.getLsbD 1 =
        ((s.blk.events.getLsbD 1 && !v.getLsbD 1) || (s.blk.decEn && s.blk.sprev.getLsbD 1 && !s.blk.sync2.getLsbD 1)) ∧
      t.blk.events.getLsbD 2 =
        ((s.blk.events.getLsbD 2 && !v.getLsbD 2) || (s.blk.wdtEn && s.blk.sprev.getLsbD 2 && !s.blk.sync2.getLsbD 2))

/-- R299, R94, R208, R313, R320: what the units measure and send does not depend on the transaction of the cycle. Two cycles
from one state that differ only in the host port leave the encoder, the prescalers, the synchronizers, the counters and
widths, the time base and the timestamp the same. -/
def Obligations.UnitsIgnoreTheHostPort : Prop :=
  ∀ (s t u : State) (i : Inputs) (p : PortIn), i.rst = false →
    runCycle i s = .next t → runCycle { i with port := p } s = .next u →
    t.blk.enc = u.blk.enc ∧ t.blk.divAcc = u.blk.divAcc ∧ t.blk.capPre = u.blk.capPre ∧ t.blk.timePre = u.blk.timePre ∧
    t.blk.sync1 = u.blk.sync1 ∧ t.blk.sync2 = u.blk.sync2 ∧ t.blk.sprev = u.blk.sprev ∧
    t.blk.steer = u.blk.steer ∧ t.blk.thr = u.blk.thr ∧
    t.blk.time = u.blk.time ∧ t.blk.last = u.blk.last ∧ t.blk.lastValid = u.blk.lastValid

/-! ## Bus errors -/

/-- R98: a misaligned access of any size raises ERR_MISALIGNED and changes no state except BUSERR. -/
def Obligations.MisalignedAccess : Prop :=
  ∀ (p : PortIn) (s : State), p.sel = true → p.addr.toNat % 4 ≠ 0 →
    hostTxn p s = .next { s with
      blk := { s.blk with busErr := s.blk.busErr.record .misaligned p.we p.addr }
      out := { ready := true, resp := true, rdata := 0 } }

/-- R93: an aligned 4-byte access at 0x48, 0x4C, ..., 0xFC raises ERR_UNMAPPED; no state changes except BUSERR, and a read
returns 0. -/
def Obligations.UnmappedAccess : Prop :=
  ∀ (p : PortIn) (s : State), p.sel = true → p.addr.toNat % 4 = 0 → p.size.toNat = 2 → 0x48 ≤ p.addr.toNat →
    hostTxn p s = .next { s with
      blk := { s.blk with busErr := s.blk.busErr.record .unmapped p.we p.addr }
      out := { ready := true, resp := true, rdata := 0 } }

/-- R94, R99: a write to an RO register or a read of TXFIFO raises ERR_ACCESS, and an aligned access of size 0, 1 or 3 at any
offset ERR_SIZE, with no side effect other than BUSERR; in particular an access of the wrong size at 0x24 or 0x2C latches no
high word. -/
def Obligations.AccessRights : Prop :=
  ∀ (p : PortIn) (s : State), p.sel = true →
    (p.size.toNat = 2 → p.we = true →
      p.addr ∈ [0x04#8, 0x14#8, 0x18#8, 0x1C#8, 0x20#8, 0x24#8, 0x28#8, 0x2C#8, 0x30#8, 0x34#8, 0x38#8, 0x3C#8, 0x40#8] →
      hostTxn p s = .next { s with
        blk := { s.blk with busErr := s.blk.busErr.record .access true p.addr }
        out := { ready := true, resp := true, rdata := 0 } }) ∧
    (p.size.toNat = 2 → p.we = false → p.addr = 0x10#8 →
      hostTxn p s = .next { s with
        blk := { s.blk with busErr := s.blk.busErr.record .access false p.addr }
        out := { ready := true, resp := true, rdata := 0 } }) ∧
    (p.addr.toNat % 4 = 0 → p.size.toNat ≠ 2 →
      hostTxn p s = .next { s with
        blk := { s.blk with busErr := s.blk.busErr.record .size p.we p.addr }
        out := { ready := true, resp := true, rdata := 0 } }) ∧
    (p.size.toNat ≠ 2 → p.addr = 0x24#8 ∨ p.addr = 0x2C#8 →
      ∃ t, hostTxn p s = .next t ∧ t.blk.timeHiLatch = s.blk.timeHiLatch ∧ t.blk.lastHiLatch = s.blk.lastHiLatch)

/-- R311, R314: the record keeps the first error and says by OVF that more followed; an error encoding leaves `cfg_err` as it
is. -/
def Obligations.ErrorRecordKeepsFirst : Prop :=
  ∀ (s : State) (i : Inputs) (c : BusCause), RunsCycle s i → i.port.sel = true → decode i.port.word = .error c →
    ∃ t, step s = .next t ∧ t.out = { ready := true, resp := true, rdata := 0 } ∧ t.blk.cfgErr = s.blk.cfgErr ∧
      (s.blk.busErr.cause = none →
        t.blk.busErr.cause = some c ∧ t.blk.busErr.ovf = false ∧ t.blk.busErr.addr = i.port.addr ∧
          t.blk.busErr.we = i.port.we) ∧
      (∀ k, s.blk.busErr.cause = some k →
        t.blk.busErr.cause = some k ∧ t.blk.busErr.ovf = true ∧ t.blk.busErr.addr = s.blk.busErr.addr ∧
          t.blk.busErr.we = s.blk.busErr.we)

/-- R311, R313: a transaction answered with an error, by a common check or by its own rule, leaves the block as a cycle
without a transaction would, apart from BUSERR and `cfg_err`. -/
def Obligations.ErrorsArePrecise : Prop :=
  ∀ (s t u : State) (i : Inputs), i.rst = false →
    runCycle i s = .next t → t.out.resp = true → runCycle { i with port := PortIn.idle } s = .next u →
    t.blk = { u.blk with busErr := t.blk.busErr, cfgErr := t.blk.cfgErr }

/-! ## The reads -/

/-- R150, R37: RD CTRL returns the enables in bits 0 to 2 and IRQ_EN in bits 10:8; every other bit is 0. -/
def Obligations.CtrlReadResult : Prop :=
  ∀ s : State, ∃ v : Word,
    exec .rdCtrl s = .next { s with out := { ready := true, resp := false, rdata := v } } ∧
    v.getLsbD 0 = s.blk.encEn ∧ v.getLsbD 1 = s.blk.decEn ∧ v.getLsbD 2 = s.blk.wdtEn ∧
    v.getLsbD 8 = s.blk.irqEn.getLsbD 0 ∧ v.getLsbD 9 = s.blk.irqEn.getLsbD 1 ∧ v.getLsbD 10 = s.blk.irqEn.getLsbD 2 ∧
    ∀ k, (3 ≤ k ∧ k ≤ 7) ∨ 11 ≤ k → v.getLsbD k = false

/-- R152, R38: RD STATUS returns every field at its place. -/
def Obligations.StatusReadResult : Prop :=
  ∀ s : State, ∃ v : Word,
    exec .rdStatus s = .next { s with out := { ready := true, resp := false, rdata := v } } ∧
    v.getLsbD 0 = decide (s.blk.fifo = []) ∧ v.getLsbD 1 = decide (s.blk.fifo.length = s.cfg.fifoDepth) ∧
    v.getLsbD 2 = s.blk.cfgErr ∧
    (v.getLsbD 3 = true ↔ ∃ c, s.blk.events.getLsbD c = true ∧ s.blk.irqEn.getLsbD c = true) ∧
    (v.extractLsb' 4 2).toNat = (match s.blk.enc.st with | .idle => 0 | .bit => 1 | .gap => 2) ∧
    (v.extractLsb' 8 8).toNat = s.blk.fifo.length % 256 ∧
    (v.extractLsb' 16 5).toNat = (match s.blk.enc.st with | .bit => s.blk.enc.bitidx % 32 | .idle => 0 | .gap => 0) ∧
    ∀ k, k = 6 ∨ k = 7 ∨ 21 ≤ k → v.getLsbD k = false

/-- R154, R184: RD EVENTS returns the event bits in bits 2:0, and RD CLKDIV returns INT in 31:16 and FRAC in 15:8; the rest
is 0 and no state changes. -/
def Obligations.EventsAndDivisorReadResults : Prop :=
  ∀ s : State,
    (∃ v : Word, exec .rdEvents s = .next { s with out := { ready := true, resp := false, rdata := v } } ∧
      v.toNat = s.blk.events.toNat) ∧
    (∃ v : Word, exec .rdClkdiv s = .next { s with out := { ready := true, resp := false, rdata := v } } ∧
      v.toNat = s.blk.clkInt.toNat * 65536 + s.blk.clkFrac.toNat * 256)

/-- R242 to R245: the widths and the live counters, zero-extended; no state changes. -/
def Obligations.WidthAndCounterReadResults : Prop :=
  ∀ s : State,
    let returns (i : Instr) (n : Nat) : Prop :=
      ∃ v : Word, exec i s = .next { s with out := { ready := true, resp := false, rdata := v } } ∧ v.toNat = n
    returns .rdSteerWidth s.blk.steer.width.toNat ∧ returns .rdThrWidth s.blk.thr.width.toNat ∧
    returns .rdSteerCnt s.blk.steer.cnt.toNat ∧ returns .rdThrCnt s.blk.thr.cnt.toNat

/-- R270 to R273: a LO read returns the low word and latches the high word of the same value; a HI read returns the
latch. -/
def Obligations.TimeAndTimestampReadResults : Prop :=
  ∀ s : State,
    (∃ lo hi : Word, exec .rdTimeLo s = .next { s with
        blk := { s.blk with timeHiLatch := hi }, out := { ready := true, resp := false, rdata := lo } } ∧
      hi.toNat * 2 ^ 32 + lo.toNat = s.blk.time.toNat) ∧
    exec .rdTimeHi s = .next { s with out := { ready := true, resp := false, rdata := s.blk.timeHiLatch } } ∧
    (∃ lo hi : Word, exec .rdLastLo s = .next { s with
        blk := { s.blk with lastHiLatch := hi }, out := { ready := true, resp := false, rdata := lo } } ∧
      hi.toNat * 2 ^ 32 + lo.toNat = s.blk.last.toNat) ∧
    exec .rdLastHi s = .next { s with out := { ready := true, resp := false, rdata := s.blk.lastHiLatch } }

/-- R156, R157, R274: the hardwired registers are functions of the configuration alone. -/
def Obligations.ParameterReadResults : Prop :=
  ∀ s : State, s.cfg.problem = none → s.cfg.t1 < 256 → s.cfg.t2 < 256 → s.cfg.t3 < 256 →
    let returns (i : Instr) (n : Nat) : Prop :=
      ∃ v : Word, exec i s = .next { s with out := { ready := true, resp := false, rdata := v } } ∧ v.toNat = n
    returns .rdParam0 (s.cfg.pullBits * 2 ^ 24 + s.cfg.t3 * 2 ^ 16 + s.cfg.t2 * 2 ^ 8 + s.cfg.t1) ∧
    returns .rdParam1 (s.cfg.resetPeriods * 2 ^ 16
      + (match s.cfg.bitOrder with | .lsbFirst => 0 | .msbFirst => 256) + s.cfg.fifoDepth) ∧
    returns .rdWdtThresh (100 * s.cfg.sysClkHz / (1000 * s.cfg.timeDiv))

/-- R277, R51: RD WDT returns EXPIRED, TIME_INSTALLED and LAST_VALID; the rest is 0 and no state changes. -/
def Obligations.FreshnessReadResult : Prop :=
  ∀ s : State, ∃ v : Word,
    exec .rdWdt s = .next { s with out := { ready := true, resp := false, rdata := v } } ∧
    v.getLsbD 0 = s.blk.expired s.cfg ∧ v.getLsbD 1 = s.blk.wdtEn ∧ v.getLsbD 2 = s.blk.lastValid ∧
    ∀ k, 3 ≤ k → v.getLsbD k = false

/-- R158, R54: RD BUSERR returns the record's fields at their places; the rest is 0 and no state changes. -/
def Obligations.ErrorRecordReadResult : Prop :=
  ∀ s : State, ∃ v : Word,
    exec .rdBuserr s = .next { s with out := { ready := true, resp := false, rdata := v } } ∧
    (v.extractLsb' 0 3).toNat = (match s.blk.busErr.cause with
      | none => 0 | some .misaligned => 1 | some .size => 2 | some .unmapped => 3 | some .access => 4
      | some .locked => 5 | some .notStarted => 6 | some .config => 7) ∧
    v.getLsbD 3 = s.blk.busErr.ovf ∧ v.extractLsb' 8 8 = s.blk.busErr.addr ∧ v.getLsbD 16 = s.blk.busErr.we ∧
    ∀ k, (4 ≤ k ∧ k ≤ 7) ∨ 17 ≤ k → v.getLsbD k = false

/-! ## The writes -/

/-- R151: an accepted WR CTRL sets the requested enables, clears none, and replaces IRQ_EN. It is accepted unless it asks for
an encoder start while CLKDIV.INT = 0 or `cfg_err` = 1. -/
def Obligations.CtrlWriteAccepted : Prop :=
  ∀ (s : State) (v : Word),
    (v.getLsbD 0 = false ∨ s.blk.encEn = true ∨ (s.blk.clkInt.toNat ≠ 0 ∧ s.blk.cfgErr = false)) →
    ∃ q : BitVec 3, (∀ k, k < 3 → q.getLsbD k = v.getLsbD (8 + k)) ∧
      exec (.wrCtrl v) s = .next { s with
        blk := { s.blk with
          encEn := s.blk.encEn || v.getLsbD 0, decEn := s.blk.decEn || v.getLsbD 1
          wdtEn := s.blk.wdtEn || v.getLsbD 2, irqEn := q }
        out := { ready := true, resp := false, rdata := 0 } }

/-- R151: a refused start raises ERR_CONFIG and sets `cfg_err`, and nothing else in the write takes effect. -/
def Obligations.CtrlWriteRefusedStart : Prop :=
  ∀ (s : State) (v : Word), v.getLsbD 0 = true → s.blk.encEn = false → (s.blk.clkInt.toNat = 0 ∨ s.blk.cfgErr = true) →
    exec (.wrCtrl v) s = .next { s with
      blk := { s.blk with cfgErr := true, busErr := s.blk.busErr.record .config true 0x00#8 }
      out := { ready := true, resp := true, rdata := 0 } }

/-- R155, R160: WR EVENTS clears exactly the bits written as 1, and WR BUSERR clears the whole record whatever its data. -/
def Obligations.EventAndErrorRecordWrites : Prop :=
  ∀ (s : State) (v : Word),
    (∃ e : BitVec 3, (∀ k, k < 3 → e.getLsbD k = (s.blk.events.getLsbD k && !v.getLsbD k)) ∧
      exec (.wrEvents v) s = .next { s with
        blk := { s.blk with events := e }, out := { ready := true, resp := false, rdata := 0 } }) ∧
    exec (.wrBuserr v) s = .next { s with
      blk := { s.blk with busErr := { cause := none, ovf := false, addr := 0, we := false } }
      out := { ready := true, resp := false, rdata := 0 } }

/-- R186: WR CLKDIV before the start takes INT and FRAC from WDATA, INT = 0 included. -/
def Obligations.DivisorWriteBeforeStart : Prop :=
  ∀ (s : State) (v : Word), s.blk.encEn = false →
    ∃ (q : BitVec 16) (f : BitVec 8), q.toNat = v.toNat / 65536 ∧ f.toNat = v.toNat / 256 % 256 ∧
      exec (.wrClkdiv v) s = .next { s with
        blk := { s.blk with clkInt := q, clkFrac := f }, out := { ready := true, resp := false, rdata := 0 } }

/-- R186: WR CLKDIV while the encoder runs raises ERR_LOCKED and leaves the divisor unchanged. -/
def Obligations.DivisorWriteLocked : Prop :=
  ∀ (s : State) (v : Word), s.blk.encEn = true →
    exec (.wrClkdiv v) s = .next { s with
      blk := { s.blk with busErr := s.blk.busErr.record .locked true 0x0C#8 }
      out := { ready := true, resp := true, rdata := 0 } }

/-- R190: WR TXFIFO after the start, with space, appends the word, 0 included. -/
def Obligations.QueueWriteAccepted : Prop :=
  ∀ (s : State) (w : Word), s.blk.encEn = true → s.blk.fifo.length ≠ s.cfg.fifoDepth →
    exec (.wrTxfifo w) s = .next { s with
      blk := { s.blk with fifo := s.blk.fifo ++ [w] }, out := { ready := true, resp := false, rdata := 0 } }

/-- R190, R95: WR TXFIFO stalls while the queue is full, and raises ERR_NOT_STARTED before the start whether or not the
queue is full (R312). That a stalled cycle answers `resp = 0` and `rdata = 0` is the model's inference (log entry 6). -/
def Obligations.QueueWriteStallsOrFails : Prop :=
  ∀ (s : State) (w : Word),
    (s.blk.encEn = true → s.blk.fifo.length = s.cfg.fifoDepth →
      exec (.wrTxfifo w) s = .next { s with out := { ready := false, resp := false, rdata := 0 } }) ∧
    (s.blk.encEn = false →
      exec (.wrTxfifo w) s = .next { s with
        blk := { s.blk with busErr := s.blk.busErr.record .notStarted true 0x10#8 }
        out := { ready := true, resp := true, rdata := 0 } })

/-! ## Flags and outputs -/

/-- R264: the comparator, strict and unsigned, the difference taken modulo 2^64. -/
def Obligations.ExpiredComparator : Prop :=
  ∀ (c : Config) (b : Block),
    b.expired c = true ↔
      (b.wdtEn = false ∨ b.lastValid = false ∨
        100 * c.sysClkHz / (1000 * c.timeDiv) < (b.time.toNat + 2 ^ 64 - b.last.toNat) % 2 ^ 64)

/-- R318, R319: an event that the hardware sets in a cycle makes `irq` 1 from the next cycle, if it is enabled there,
whatever the transaction of the cycle is; and `irq` is 1 only for an enabled pending event. -/
def Obligations.EventRaisesInterrupt : Prop :=
  ∀ (s t : State) (i : Inputs) (c : Nat), RunsCycle s i → step s = .next t → c < 3 →
    ((if c < 2 then s.blk.decEn else s.blk.wdtEn) = true → s.blk.sprev.getLsbD c = true →
      s.blk.sync2.getLsbD c = false → t.blk.irqEn.getLsbD c = true → t.blk.irq = true) ∧
    (t.blk.irq = true → ∃ k, k < 3 ∧ t.blk.events.getLsbD k = true ∧ t.blk.irqEn.getLsbD k = true)

/-! ## The encoder -/

/-- R182: from the first cycle with ENC_EN = 1, the number of ticks in the first `j` cycles is `floor(256 × j / Dfix)`: the
cycle after them has a tick exactly when that number grows. -/
def Obligations.DividerTickTimes : Prop :=
  ∀ (j : Nat) (s t : State), Inv s → s.blk.encEn = true → s.blk.divAcc = 0 → Undisturbed j s → s.after j = .next t →
    countCycles (fun u => u.blk.encTick) j s = 256 * j / s.blk.dfix ∧
    t.blk.dfix = s.blk.dfix ∧
    (t.blk.encTick = true ↔ 256 * (j + 1) / s.blk.dfix = 256 * j / s.blk.dfix + 1)

/-- R193: a TXFIFO write that stalls completes no later than `ceil(U × Dfix / 256) + 1` cycles later, provided the host keeps
presenting it; until then it stalls, and then the word is the newest of the queue. -/
def Obligations.StallIsBounded : Prop :=
  ∀ (s : State) (w : Word), Inv s → s.blk.encEn = true → s.blk.fifo.length = s.cfg.fifoDepth →
    (∀ k, k ≤ (s.cfg.longestUnit * s.blk.dfix + 255) / 256 + 1 →
      ∃ i, s.stimulusAt k = .cycle i ∧ i.rst = false ∧ Presents i (.wrTxfifo w)) →
    ∃ j, j ≤ (s.cfg.longestUnit * s.blk.dfix + 255) / 256 + 1 ∧
      ∃ t, s.after (j + 1) = .next t ∧ t.out.ready = true ∧ t.out.resp = false ∧ t.blk.fifo.getLast? = some w ∧
        ∀ k u, 1 ≤ k → k ≤ j → s.after k = .next u → u.out.ready = false

/-- R201, R204, R205: once a non-zero word is taken, encoder cycle `n` of its PULL_BITS × BIT_CYCLES is phase `n mod
BIT_CYCLES` of bit period `n / BIT_CYCLES`: high for T1, then the bit for T2, then low for T3; and only the last one ends
the word. -/
def Obligations.WordWaveform : Prop :=
  ∀ (c : Config) (q : List Word) (e : Encoder) (w : Word) (n : Nat),
    c.problem = none → w ≠ 0 → n < c.pullBits * c.bitCycles →
    let e' := Nat.iterate (Encoder.onTick c q) n ((e.startUnit c (some w)).drive c)
    let bit := match c.bitOrder with
      | .lsbFirst => w.getLsbD (n / c.bitCycles)
      | .msbFirst => w.getLsbD (c.pullBits - 1 - n / c.bitCycles)
    e'.st = .bit ∧ e'.osr = w ∧ e'.bitidx = n / c.bitCycles ∧ e'.phase = n % c.bitCycles ∧
    e'.dout = (decide (n % c.bitCycles < c.t1) || (decide (n % c.bitCycles < c.t1 + c.t2) && bit)) ∧
    (e'.finishCycle c = none ↔ n + 1 = c.pullBits * c.bitCycles)

/-- R203: a sentinel gives exactly RESET_CYCLES low encoder cycles, counted down from RESET_CYCLES to 1. -/
def Obligations.GapWaveform : Prop :=
  ∀ (c : Config) (q : List Word) (e : Encoder) (n : Nat),
    c.problem = none → n < c.resetPeriods * c.bitCycles →
    let e' := Nat.iterate (Encoder.onTick c q) n ((e.startUnit c (some 0)).drive c)
    e'.st = .gap ∧ e'.gcnt = c.resetPeriods * c.bitCycles - n ∧ e'.dout = false ∧
    (e'.finishCycle c = none ↔ n + 1 = c.resetPeriods * c.bitCycles)

/-- R191, R200, R206, R207: at the tick that ends a unit the machine takes the oldest queued word at once, a gap for the zero
word and a serialized word for any other, and goes IDLE and low if none is queued. -/
def Obligations.NextUnitStartsAtOnce : Prop :=
  ∀ (s : State) (i : Inputs), RunsCycle s i → s.blk.encTick = true → s.blk.enc.finishCycle s.cfg = none →
    ∃ t, step s = .next t ∧
      (s.blk.fifo = [] → t.blk.enc.st = .idle ∧ t.blk.enc.dout = false) ∧
      (∀ rest, s.blk.fifo = 0#32 :: rest →
        t.blk.enc.st = .gap ∧ t.blk.enc.gcnt = s.cfg.resetPeriods * s.cfg.bitCycles ∧ t.blk.enc.dout = false ∧
          rest <+: t.blk.fifo) ∧
      (∀ w rest, w ≠ 0 → s.blk.fifo = w :: rest →
        t.blk.enc.st = .bit ∧ t.blk.enc.osr = w ∧ t.blk.enc.bitidx = 0 ∧ t.blk.enc.phase = 0 ∧ t.blk.enc.dout = true ∧
          rest <+: t.blk.fifo)

/-- R191, R202, R208: in a cycle without an encoder tick the encoder and `dout` are unchanged and nothing is popped. -/
def Obligations.EncoderRestsWithoutTick : Prop :=
  ∀ (s : State) (i : Inputs), RunsCycle s i → s.blk.encTick = false →
    ∃ t, step s = .next t ∧ t.blk.enc = s.blk.enc ∧ t.blk.dout = s.blk.dout ∧ s.blk.fifo <+: t.blk.fifo

/-- R202: at a tick inside a unit the step puts the finished encoder cycle's successor in place, drives its level, and pops
nothing. -/
def Obligations.TickInsideUnit : Prop :=
  ∀ (s : State) (i : Inputs) (e' : Encoder), RunsCycle s i → s.blk.encTick = true →
    s.blk.enc.finishCycle s.cfg = some e' →
    ∃ t, step s = .next t ∧ t.blk.enc = e'.drive s.cfg ∧ t.blk.dout = level s.cfg e'.st e'.osr e'.bitidx e'.phase ∧
      s.blk.fifo <+: t.blk.fifo

/-! ## The decoder and the watchdog -/

/-- R233, R234: the synchronized level is the input of two cycles ago, `sprev` that of three cycles ago, and a falling edge is
seen exactly for an input sampled 1 and then 0, two cycles after the 0. -/
def Obligations.SynchronizerLatency : Prop :=
  ∀ (s t : State) (i0 i1 i2 : Inputs),
    s.stimulusAt 0 = .cycle i0 → s.stimulusAt 1 = .cycle i1 → s.stimulusAt 2 = .cycle i2 →
    i0.rst = false → i1.rst = false → i2.rst = false → s.after 3 = .next t →
    let level (i : Inputs) (c : Nat) : Bool := if c = 0 then i.steer else if c = 1 then i.thr else i.upd
    ∀ c, c < 3 →
      t.blk.sync1.getLsbD c = level i2 c ∧ t.blk.sync2.getLsbD c = level i1 c ∧ t.blk.sprev.getLsbD c = level i0 c ∧
      t.blk.falls.getLsbD c = (level i0 c && !level i1 c)

/-- R236, R237: with DEC_EN = 1 a falling edge of channel 0 or 1 moves its count to its width, clears the count and sets its
event in one cycle, whatever the transaction; with DEC_EN = 0 the counters and widths do not change and no capture event
is set. -/
def Obligations.CaptureCommits : Prop :=
  ∀ (s : State) (i : Inputs), RunsCycle s i →
    ∃ t, step s = .next t ∧
      (s.blk.decEn = true → s.blk.sprev.getLsbD 0 = true → s.blk.sync2.getLsbD 0 = false →
        t.blk.steer.width = s.blk.steer.cnt ∧ t.blk.steer.cnt = 0 ∧ t.blk.events.getLsbD 0 = true) ∧
      (s.blk.decEn = true → s.blk.sprev.getLsbD 1 = true → s.blk.sync2.getLsbD 1 = false →
        t.blk.thr.width = s.blk.thr.cnt ∧ t.blk.thr.cnt = 0 ∧ t.blk.events.getLsbD 1 = true) ∧
      (s.blk.decEn = false →
        t.blk.steer = s.blk.steer ∧ t.blk.thr = s.blk.thr ∧
        (t.blk.events.getLsbD 0 = true → s.blk.events.getLsbD 0 = true) ∧
        (t.blk.events.getLsbD 1 = true → s.blk.events.getLsbD 1 = true))

/-- R235, R238, R239: over cycles without a falling edge of a channel, its counter grows, modulo 2^16, by the number of
cycles with a capture tick and a high synchronized level; the falling edge that follows makes that count the width. -/
def Obligations.WidthCountsHighTicks : Prop :=
  ∀ (n : Nat) (s t : State), s.blk.decEn = true → Undisturbed n s → s.after n = .next t →
    (Throughout (fun u => u.blk.falls.getLsbD 0 = false) n s →
      t.blk.steer.width = s.blk.steer.width ∧
      t.blk.steer.cnt.toNat =
        (s.blk.steer.cnt.toNat + countCycles (fun u => u.blk.capTick u.cfg && u.blk.sync2.getLsbD 0) n s) % 2 ^ 16 ∧
      ∀ i u, RunsCycle t i → t.blk.falls.getLsbD 0 = true → step t = .next u → u.blk.steer.width = t.blk.steer.cnt) ∧
    (Throughout (fun u => u.blk.falls.getLsbD 1 = false) n s →
      t.blk.thr.width = s.blk.thr.width ∧
      t.blk.thr.cnt.toNat =
        (s.blk.thr.cnt.toNat + countCycles (fun u => u.blk.capTick u.cfg && u.blk.sync2.getLsbD 1) n s) % 2 ^ 16 ∧
      ∀ i u, RunsCycle t i → t.blk.falls.getLsbD 1 = true → step t = .next u → u.blk.thr.width = t.blk.thr.cnt)

/-- R231, R260, R261, R344: whatever the transactions and the enables, the time prescaler counts modulo TIME_DIV and `time`
one tick every TIME_DIV cycles, modulo 2^64; the capture prescaler counts modulo CAP_DIV, and a cycle has a capture tick
exactly when it stands at CAP_DIV - 1. -/
def Obligations.TimeBaseCountsTicks : Prop :=
  ∀ (n : Nat) (s t : State), Undisturbed n s → s.after n = .next t →
    (s.blk.timePre < s.cfg.timeDiv →
      t.blk.timePre = (s.blk.timePre + n) % s.cfg.timeDiv ∧
      t.blk.time.toNat = (s.blk.time.toNat + (s.blk.timePre + n) / s.cfg.timeDiv) % 2 ^ 64) ∧
    (s.blk.capPre < s.cfg.capDiv →
      t.blk.capPre = (s.blk.capPre + n) % s.cfg.capDiv ∧
      (t.blk.capTick t.cfg = true ↔ (s.blk.capPre + n) % s.cfg.capDiv = s.cfg.capDiv - 1))

/-- R263, R276: with WDT_EN = 1 an update edge records the time at the start of its cycle and sets EV_UPD, whatever the
transaction; with WDT_EN = 0, and without an edge, nothing is recorded. -/
def Obligations.UpdateEdgeRecorded : Prop :=
  ∀ (s : State) (i : Inputs), RunsCycle s i →
    ∃ t, step s = .next t ∧
      (s.blk.wdtEn = true → s.blk.sprev.getLsbD 2 = true → s.blk.sync2.getLsbD 2 = false →
        t.blk.last = s.blk.time ∧ t.blk.lastValid = true ∧ t.blk.events.getLsbD 2 = true) ∧
      (s.blk.wdtEn = false ∨ s.blk.sprev.getLsbD 2 = false ∨ s.blk.sync2.getLsbD 2 = true →
        t.blk.last = s.blk.last ∧ t.blk.lastValid = s.blk.lastValid ∧
        (t.blk.events.getLsbD 2 = true → s.blk.events.getLsbD 2 = true))

/-- R265, R268: after an edge recorded at T and over cycles without a further update edge, the answer is "not expired" exactly
while `time` is at most the threshold beyond T (as long as the distance is below 2^64). -/
def Obligations.ExpiryBoundary : Prop :=
  ∀ (n : Nat) (s t : State), s.blk.wdtEn = true → s.blk.lastValid = true → Undisturbed n s → s.after n = .next t →
    Throughout (fun u => u.blk.falls.getLsbD 2 = false) n s →
    t.blk.last = s.blk.last ∧
    (s.blk.last.toNat ≤ t.blk.time.toNat →
      (t.blk.expired t.cfg = false ↔
        t.blk.time.toNat ≤ s.blk.last.toNat + 100 * s.cfg.sysClkHz / (1000 * s.cfg.timeDiv)))

/-- R275: RD TIME_LO, then RD TIME_HI any number of cycles later with no TIME_LO read and no reset in between, gives the value
of `time` at the start of the LO read; the same for LAST. -/
def Obligations.SixtyFourBitReadPairs : Prop :=
  ∀ (s s1 s2 s3 : State) (n : Nat) (i j : Inputs),
    RunsCycle s i → step s = .next s1 → Undisturbed n s1 → s1.after n = .next s2 → RunsCycle s2 j → step s2 = .next s3 →
    (Presents i .rdTimeLo → Presents j .rdTimeHi →
      (∀ k x, k < n → s1.stimulusAt k = .cycle x → ¬ Presents x .rdTimeLo) →
      s3.out.rdata ++ s1.out.rdata = s.blk.time) ∧
    (Presents i .rdLastLo → Presents j .rdLastHi →
      (∀ k x, k < n → s1.stimulusAt k = .cycle x → ¬ Presents x .rdLastLo) →
      s3.out.rdata ++ s1.out.rdata = s.blk.last)

/-! ## Invariants -/

/-- The invariant holds right after reset, under every legal configuration (R62). The second clause is about the
configuration that the model chose for `State.reset` (log entry 1) only in that it is legal. -/
def Obligations.InvariantAtReset : Prop :=
  (∀ c : Config, c.problem = none → Inv (State.resetWith c)) ∧ Inv State.reset

/-- Every step keeps the invariant: the ranges of R57, R58 and R61, the queue invariants of R192, the divider's bound of R181,
the exclusion of R153, the level of R204 and the quiet units of R209, R237 and R276. -/
def Obligations.InvariantKeptByStep : Prop :=
  ∀ s t : State, Inv s → step s = .next t → Inv t

/-- R153, R317: without reset the enables and `cfg_err` are never cleared, the divisor does not change while ENC_EN = 1, and
ENC_EN and `cfg_err` are never both 1. -/
def Obligations.ConfigurationIsMonotone : Prop :=
  ∀ (n : Nat) (s t : State), Inv s → Undisturbed n s → s.after n = .next t →
    (s.blk.encEn = true → t.blk.encEn = true ∧ t.blk.clkInt = s.blk.clkInt ∧ t.blk.clkFrac = s.blk.clkFrac) ∧
    (s.blk.decEn = true → t.blk.decEn = true) ∧ (s.blk.wdtEn = true → t.blk.wdtEn = true) ∧
    (s.blk.cfgErr = true → t.blk.cfgErr = true) ∧ ¬(t.blk.encEn = true ∧ t.blk.cfgErr = true)

/-- R316: once `cfg_err` is set, and until reset, `dout` stays 0, every start request fails with ERR_CONFIG and every TXFIFO
write with ERR_NOT_STARTED, while the decoder and the watchdog can still be enabled. -/
def Obligations.RefusedStartIsFatal : Prop :=
  ∀ (n : Nat) (s t : State) (v w : Word), Inv s → s.blk.cfgErr = true → Undisturbed n s → s.after n = .next t →
    t.blk.cfgErr = true ∧ t.blk.encEn = false ∧ t.blk.dout = false ∧
    (v.getLsbD 0 = true → ∃ u, exec (.wrCtrl v) t = .next u ∧ u.out.resp = true ∧ u.blk.encEn = false) ∧
    (∃ u, exec (.wrTxfifo w) t = .next u ∧ u.out.resp = true ∧ u.blk.fifo = []) ∧
    (∃ u, exec (.wrCtrl 6) t = .next u ∧ u.out.resp = false ∧ u.blk.decEn = true ∧ u.blk.wdtEn = true)

/-! ## The host's side -/

/-- R290: `serialize` puts 0xFF in the top byte and the channels in their places, is inverted by the field reads, and is
never the zero sentinel. -/
def Obligations.SerializeRoundTrip : Prop :=
  ∀ a b c : BitVec 8,
    (serialize a b c).toNat = 0xFF000000 + a.toNat * 2 ^ 16 + b.toNat * 2 ^ 8 + c.toNat ∧
    colorHeader (serialize a b c) = 0xFF ∧ colorA (serialize a b c) = a ∧ colorB (serialize a b c) = b ∧
    colorC (serialize a b c) = c ∧ serialize a b c ≠ 0

/-- R294, R40: ClkdivFor answers a word exactly if the divisor's integer part is in 1..0xFFFF; written to CLKDIV it makes Dfix
the divisor rounded down, so the bit rate is at least the target and above it by less than a factor (D+1)/D. -/
def Obligations.DivisorComputation : Prop :=
  ∀ (f r bc : Nat) (s : State) (v : Word), s.blk.encEn = false → 0 < r → 0 < bc →
    (clkdivFor f r bc = none ↔ (f * 256 / (r * bc) < 256 ∨ 65536 * 256 ≤ f * 256 / (r * bc))) ∧
    (clkdivFor f r bc = some v →
      ∃ t, exec (.wrClkdiv v) s = .next t ∧ t.out.resp = false ∧
        t.blk.dfix * (r * bc) ≤ f * 256 ∧ f * 256 < (t.blk.dfix + 1) * (r * bc) ∧ t.blk.clkInt.toNat ≠ 0)

/-- R295, R345: `START d` right after reset starts the encoder with the divisor `d`, unless d has INT = 0: then the second
response is an error, `cfg_err` is set and the encoder does not run. -/
def Obligations.StartSequence : Prop :=
  ∀ (c : Config) (d : Word) (tm : Term), c.problem = none →
    ∃ t r, runProgram 2 Levels.low (expandPseudo tm (.start d)) (State.resetWith c) = some (t, [PortOut.okay, r]) ∧
      t.blk.clkInt.toNat = d.toNat / 65536 ∧ t.blk.clkFrac.toNat = d.toNat / 256 % 256 ∧
      (65536 ≤ d.toNat → r = PortOut.okay ∧ t.blk.encEn = true ∧ t.blk.cfgErr = false) ∧
      (d.toNat < 65536 → r.resp = true ∧ t.blk.encEn = false ∧ t.blk.cfgErr = true ∧ t.blk.busErr.cause = some .config)

/-- R188, R291, R292, R297: a completed frame write has appended exactly its seven words, in order, with nothing between
them: the queue is what is left, at its end, of the queue before and the frame. -/
def Obligations.FrameWriteEnqueuesSevenWords : Prop :=
  ∀ (fuel : Nat) (l : Levels) (tm : Term) (fl fr rr rl : Word) (s t : State) (log : List PortOut),
    Inv s → s.blk.encEn = true →
    runProgram fuel l (expandPseudo tm (.wrFrame fl fr rr rl)) s = some (t, log) →
    log = List.replicate 7 PortOut.okay ∧
    ∃ n, n ≤ s.blk.fifo.length + 7 ∧
      t.blk.fifo = (s.blk.fifo ++ [fl, fr, rr, rl, tm.term0, tm.term1, tm.term2]).drop n
end

