-- ==== Sys2Proof/Laws/State.lean ====
section
/-! SUPPORT. One lemma per field and per state update of the model, true by definition, so that no later proof unfolds a
record update. -/

namespace Sys2Proof.Machine

/-! `readReturns` -/

@[simp] theorem State.readReturns_cfg (v : Word) (s : State) : (s.readReturns v).cfg = s.cfg := rfl
@[simp] theorem State.readReturns_blk (v : Word) (s : State) : (s.readReturns v).blk = s.blk := rfl
@[simp] theorem State.readReturns_out (v : Word) (s : State) : (s.readReturns v).out = { ready := true, resp := false, rdata := v } := rfl
@[simp] theorem State.readReturns_inputs (v : Word) (s : State) : (s.readReturns v).inputs = s.inputs := rfl
@[simp] theorem State.readReturns_cycle (v : Word) (s : State) : (s.readReturns v).cycle = s.cycle := rfl
@[simp] theorem State.readReturns_elapsed (v : Word) (s : State) : (s.readReturns v).elapsed = s.elapsed := rfl

/-! `readWithEffect` -/

@[simp] theorem State.readWithEffect_cfg (v : Word) (b : Block) (s : State) : (s.readWithEffect v b).cfg = s.cfg := rfl
@[simp] theorem State.readWithEffect_blk (v : Word) (b : Block) (s : State) : (s.readWithEffect v b).blk = b := rfl
@[simp] theorem State.readWithEffect_out (v : Word) (b : Block) (s : State) : (s.readWithEffect v b).out = { ready := true, resp := false, rdata := v } := rfl
@[simp] theorem State.readWithEffect_inputs (v : Word) (b : Block) (s : State) : (s.readWithEffect v b).inputs = s.inputs := rfl
@[simp] theorem State.readWithEffect_cycle (v : Word) (b : Block) (s : State) : (s.readWithEffect v b).cycle = s.cycle := rfl
@[simp] theorem State.readWithEffect_elapsed (v : Word) (b : Block) (s : State) : (s.readWithEffect v b).elapsed = s.elapsed := rfl

/-! `writeCompletes` -/

@[simp] theorem State.writeCompletes_cfg (b : Block) (s : State) : (s.writeCompletes b).cfg = s.cfg := rfl
@[simp] theorem State.writeCompletes_blk (b : Block) (s : State) : (s.writeCompletes b).blk = b := rfl
@[simp] theorem State.writeCompletes_out (b : Block) (s : State) : (s.writeCompletes b).out = PortOut.okay := rfl
@[simp] theorem State.writeCompletes_inputs (b : Block) (s : State) : (s.writeCompletes b).inputs = s.inputs := rfl
@[simp] theorem State.writeCompletes_cycle (b : Block) (s : State) : (s.writeCompletes b).cycle = s.cycle := rfl
@[simp] theorem State.writeCompletes_elapsed (b : Block) (s : State) : (s.writeCompletes b).elapsed = s.elapsed := rfl

/-! `stalls` -/

@[simp] theorem State.stalls_cfg (s : State) : (s.stalls).cfg = s.cfg := rfl
@[simp] theorem State.stalls_blk (s : State) : (s.stalls).blk = s.blk := rfl
@[simp] theorem State.stalls_out (s : State) : (s.stalls).out = { ready := false, resp := false, rdata := 0 } := rfl
@[simp] theorem State.stalls_inputs (s : State) : (s.stalls).inputs = s.inputs := rfl
@[simp] theorem State.stalls_cycle (s : State) : (s.stalls).cycle = s.cycle := rfl
@[simp] theorem State.stalls_elapsed (s : State) : (s.stalls).elapsed = s.elapsed := rfl

/-! `portIdle` -/

@[simp] theorem State.portIdle_cfg (s : State) : (s.portIdle).cfg = s.cfg := rfl
@[simp] theorem State.portIdle_blk (s : State) : (s.portIdle).blk = s.blk := rfl
@[simp] theorem State.portIdle_out (s : State) : (s.portIdle).out = PortOut.okay := rfl
@[simp] theorem State.portIdle_inputs (s : State) : (s.portIdle).inputs = s.inputs := rfl
@[simp] theorem State.portIdle_cycle (s : State) : (s.portIdle).cycle = s.cycle := rfl
@[simp] theorem State.portIdle_elapsed (s : State) : (s.portIdle).elapsed = s.elapsed := rfl

/-! `busError` -/

@[simp] theorem State.busError_cfg (c : BusCause) (we : Bool) (a : Offset) (s : State) : (s.busError c we a).cfg = s.cfg := rfl
@[simp] theorem State.busError_blk (c : BusCause) (we : Bool) (a : Offset) (s : State) : (s.busError c we a).blk = { s.blk with busErr := s.blk.busErr.record c we a, cfgErr := s.blk.cfgErr || c == .config } := rfl
@[simp] theorem State.busError_out (c : BusCause) (we : Bool) (a : Offset) (s : State) : (s.busError c we a).out = { ready := true, resp := true, rdata := 0 } := rfl
@[simp] theorem State.busError_inputs (c : BusCause) (we : Bool) (a : Offset) (s : State) : (s.busError c we a).inputs = s.inputs := rfl
@[simp] theorem State.busError_cycle (c : BusCause) (we : Bool) (a : Offset) (s : State) : (s.busError c we a).cycle = s.cycle := rfl
@[simp] theorem State.busError_elapsed (c : BusCause) (we : Bool) (a : Offset) (s : State) : (s.busError c we a).elapsed = s.elapsed := rfl

/-! `commit` -/

@[simp] theorem State.commit_cfg (i : Inputs) (s s1 : State) : (s.commit i s1).cfg = s1.cfg := rfl
@[simp] theorem State.commit_blk (i : Inputs) (s s1 : State) : (s.commit i s1).blk = s.blk.commit s.cfg i s1.blk := rfl
@[simp] theorem State.commit_out (i : Inputs) (s s1 : State) : (s.commit i s1).out = s1.out := rfl
@[simp] theorem State.commit_inputs (i : Inputs) (s s1 : State) : (s.commit i s1).inputs = s.inputs.tail := rfl
@[simp] theorem State.commit_cycle (i : Inputs) (s s1 : State) : (s.commit i s1).cycle = s.cycle + 1 := rfl
@[simp] theorem State.commit_elapsed (i : Inputs) (s s1 : State) : (s.commit i s1).elapsed = s.elapsed + 1 := rfl

/-! `resetCycle` -/

@[simp] theorem State.resetCycle_cfg (s : State) : (s.resetCycle).cfg = s.cfg := rfl
@[simp] theorem State.resetCycle_blk (s : State) : (s.resetCycle).blk = Block.reset := rfl
@[simp] theorem State.resetCycle_out (s : State) : (s.resetCycle).out = Config.freeResponse s.elapsed := rfl
@[simp] theorem State.resetCycle_inputs (s : State) : (s.resetCycle).inputs = s.inputs.tail := rfl
@[simp] theorem State.resetCycle_cycle (s : State) : (s.resetCycle).cycle = 0 := rfl
@[simp] theorem State.resetCycle_elapsed (s : State) : (s.resetCycle).elapsed = s.elapsed + 1 := rfl

/-! `resetWith` -/

@[simp] theorem State.resetWith_cfg (c : Config) : (State.resetWith c).cfg = c := rfl
@[simp] theorem State.resetWith_blk (c : Config) : (State.resetWith c).blk = Block.reset := rfl
@[simp] theorem State.resetWith_out (c : Config) : (State.resetWith c).out = PortOut.okay := rfl
@[simp] theorem State.resetWith_inputs (c : Config) : (State.resetWith c).inputs = [] := rfl
@[simp] theorem State.resetWith_cycle (c : Config) : (State.resetWith c).cycle = 0 := rfl
@[simp] theorem State.resetWith_elapsed (c : Config) : (State.resetWith c).elapsed = 0 := rfl

/-! `Block.writeCtrl` -/

@[simp] theorem Block.writeCtrl_encEn (v : Word) (b : Block) : (b.writeCtrl v).encEn = (b.encEn || ctrlEncReq v) := rfl
@[simp] theorem Block.writeCtrl_decEn (v : Word) (b : Block) : (b.writeCtrl v).decEn = (b.decEn || ctrlDecReq v) := rfl
@[simp] theorem Block.writeCtrl_wdtEn (v : Word) (b : Block) : (b.writeCtrl v).wdtEn = (b.wdtEn || ctrlWdtReq v) := rfl
@[simp] theorem Block.writeCtrl_irqEn (v : Word) (b : Block) : (b.writeCtrl v).irqEn = ctrlIrqEn v := rfl
@[simp] theorem Block.writeCtrl_cfgErr (v : Word) (b : Block) : (b.writeCtrl v).cfgErr = b.cfgErr := rfl
@[simp] theorem Block.writeCtrl_events (v : Word) (b : Block) : (b.writeCtrl v).events = b.events := rfl
@[simp] theorem Block.writeCtrl_clkInt (v : Word) (b : Block) : (b.writeCtrl v).clkInt = b.clkInt := rfl
@[simp] theorem Block.writeCtrl_clkFrac (v : Word) (b : Block) : (b.writeCtrl v).clkFrac = b.clkFrac := rfl
@[simp] theorem Block.writeCtrl_fifo (v : Word) (b : Block) : (b.writeCtrl v).fifo = b.fifo := rfl
@[simp] theorem Block.writeCtrl_enc (v : Word) (b : Block) : (b.writeCtrl v).enc = b.enc := rfl
@[simp] theorem Block.writeCtrl_divAcc (v : Word) (b : Block) : (b.writeCtrl v).divAcc = b.divAcc := rfl
@[simp] theorem Block.writeCtrl_capPre (v : Word) (b : Block) : (b.writeCtrl v).capPre = b.capPre := rfl
@[simp] theorem Block.writeCtrl_timePre (v : Word) (b : Block) : (b.writeCtrl v).timePre = b.timePre := rfl
@[simp] theorem Block.writeCtrl_sync1 (v : Word) (b : Block) : (b.writeCtrl v).sync1 = b.sync1 := rfl
@[simp] theorem Block.writeCtrl_sync2 (v : Word) (b : Block) : (b.writeCtrl v).sync2 = b.sync2 := rfl
@[simp] theorem Block.writeCtrl_sprev (v : Word) (b : Block) : (b.writeCtrl v).sprev = b.sprev := rfl
@[simp] theorem Block.writeCtrl_steer (v : Word) (b : Block) : (b.writeCtrl v).steer = b.steer := rfl
@[simp] theorem Block.writeCtrl_thr (v : Word) (b : Block) : (b.writeCtrl v).thr = b.thr := rfl
@[simp] theorem Block.writeCtrl_time (v : Word) (b : Block) : (b.writeCtrl v).time = b.time := rfl
@[simp] theorem Block.writeCtrl_last (v : Word) (b : Block) : (b.writeCtrl v).last = b.last := rfl
@[simp] theorem Block.writeCtrl_timeHiLatch (v : Word) (b : Block) : (b.writeCtrl v).timeHiLatch = b.timeHiLatch := rfl
@[simp] theorem Block.writeCtrl_lastHiLatch (v : Word) (b : Block) : (b.writeCtrl v).lastHiLatch = b.lastHiLatch := rfl
@[simp] theorem Block.writeCtrl_lastValid (v : Word) (b : Block) : (b.writeCtrl v).lastValid = b.lastValid := rfl
@[simp] theorem Block.writeCtrl_busErr (v : Word) (b : Block) : (b.writeCtrl v).busErr = b.busErr := rfl

/-! `Block.commit` -/

@[simp] theorem Block.commit_encEn (c : Config) (i : Inputs) (b h : Block) : (b.commit c i h).encEn = h.encEn := rfl
@[simp] theorem Block.commit_decEn (c : Config) (i : Inputs) (b h : Block) : (b.commit c i h).decEn = h.decEn := rfl
@[simp] theorem Block.commit_wdtEn (c : Config) (i : Inputs) (b h : Block) : (b.commit c i h).wdtEn = h.wdtEn := rfl
@[simp] theorem Block.commit_irqEn (c : Config) (i : Inputs) (b h : Block) : (b.commit c i h).irqEn = h.irqEn := rfl
@[simp] theorem Block.commit_cfgErr (c : Config) (i : Inputs) (b h : Block) : (b.commit c i h).cfgErr = h.cfgErr := rfl
@[simp] theorem Block.commit_events (c : Config) (i : Inputs) (b h : Block) : (b.commit c i h).events = h.events ||| b.eventsSet := rfl
@[simp] theorem Block.commit_clkInt (c : Config) (i : Inputs) (b h : Block) : (b.commit c i h).clkInt = h.clkInt := rfl
@[simp] theorem Block.commit_clkFrac (c : Config) (i : Inputs) (b h : Block) : (b.commit c i h).clkFrac = h.clkFrac := rfl
@[simp] theorem Block.commit_fifo (c : Config) (i : Inputs) (b h : Block) : (b.commit c i h).fifo = if b.pops c then h.fifo.tail else h.fifo := rfl
@[simp] theorem Block.commit_enc (c : Config) (i : Inputs) (b h : Block) : (b.commit c i h).enc = b.nextEnc c := rfl
@[simp] theorem Block.commit_divAcc (c : Config) (i : Inputs) (b h : Block) : (b.commit c i h).divAcc = b.nextDivAcc := rfl
@[simp] theorem Block.commit_capPre (c : Config) (i : Inputs) (b h : Block) : (b.commit c i h).capPre = b.nextCapPre c := rfl
@[simp] theorem Block.commit_timePre (c : Config) (i : Inputs) (b h : Block) : (b.commit c i h).timePre = b.nextTimePre c := rfl
@[simp] theorem Block.commit_sync1 (c : Config) (i : Inputs) (b h : Block) : (b.commit c i h).sync1 = inputPins i := rfl
@[simp] theorem Block.commit_sync2 (c : Config) (i : Inputs) (b h : Block) : (b.commit c i h).sync2 = b.sync1 := rfl
@[simp] theorem Block.commit_sprev (c : Config) (i : Inputs) (b h : Block) : (b.commit c i h).sprev = b.sync2 := rfl
@[simp] theorem Block.commit_steer (c : Config) (i : Inputs) (b h : Block) : (b.commit c i h).steer = b.steer.next (b.captures 0) (b.counts c 0) := rfl
@[simp] theorem Block.commit_thr (c : Config) (i : Inputs) (b h : Block) : (b.commit c i h).thr = b.thr.next (b.captures 1) (b.counts c 1) := rfl
@[simp] theorem Block.commit_time (c : Config) (i : Inputs) (b h : Block) : (b.commit c i h).time = b.nextTime c := rfl
@[simp] theorem Block.commit_last (c : Config) (i : Inputs) (b h : Block) : (b.commit c i h).last = b.nextLast := rfl
@[simp] theorem Block.commit_timeHiLatch (c : Config) (i : Inputs) (b h : Block) : (b.commit c i h).timeHiLatch = h.timeHiLatch := rfl
@[simp] theorem Block.commit_lastHiLatch (c : Config) (i : Inputs) (b h : Block) : (b.commit c i h).lastHiLatch = h.lastHiLatch := rfl
@[simp] theorem Block.commit_lastValid (c : Config) (i : Inputs) (b h : Block) : (b.commit c i h).lastValid = (b.lastValid || b.recordsUpdate) := rfl
@[simp] theorem Block.commit_busErr (c : Config) (i : Inputs) (b h : Block) : (b.commit c i h).busErr = h.busErr := rfl

/-! `Encoder.drive` -/

@[simp] theorem Encoder.drive_st (c : Config) (e : Encoder) : (e.drive c).st = e.st := rfl
@[simp] theorem Encoder.drive_osr (c : Config) (e : Encoder) : (e.drive c).osr = e.osr := rfl
@[simp] theorem Encoder.drive_bitidx (c : Config) (e : Encoder) : (e.drive c).bitidx = e.bitidx := rfl
@[simp] theorem Encoder.drive_phase (c : Config) (e : Encoder) : (e.drive c).phase = e.phase := rfl
@[simp] theorem Encoder.drive_gcnt (c : Config) (e : Encoder) : (e.drive c).gcnt = e.gcnt := rfl
@[simp] theorem Encoder.drive_dout (c : Config) (e : Encoder) : (e.drive c).dout = level c e.st e.osr e.bitidx e.phase := rfl

/-! The ports -/

@[simp] theorem PortIn.ofWord_sel (t : Txn) : (PortIn.ofWord t).sel = true := rfl
@[simp] theorem PortIn.ofWord_we (t : Txn) : (PortIn.ofWord t).we = t.we := rfl
@[simp] theorem PortIn.ofWord_size (t : Txn) : (PortIn.ofWord t).size = t.size := rfl
@[simp] theorem PortIn.ofWord_addr (t : Txn) : (PortIn.ofWord t).addr = t.addr := rfl
@[simp] theorem PortIn.ofWord_wdata (t : Txn) : (PortIn.ofWord t).wdata = t.wdata := rfl
@[simp] theorem PortIn.idle_sel : PortIn.idle.sel = false := rfl
@[simp] theorem PortOut.okay_ready : PortOut.okay.ready = true := rfl
@[simp] theorem PortOut.okay_resp : PortOut.okay.resp = false := rfl
@[simp] theorem PortOut.okay_rdata : PortOut.okay.rdata = 0 := rfl

end Sys2Proof.Machine
end

