-- ==== Sys2Proof/Laws/Decode.lean ====
section
/-! SUPPORT. The fields of transaction words: presenting a word and reading it back, and the fields of an encoded
transaction. -/

namespace Sys2Proof

/-- The bits of a presented word, field by field (R121). -/
theorem PortIn.word_getLsbD (p : PortIn) (k : Nat) :
    p.word.getLsbD k =
      (decide (k < 43) &&
        if k < 32 then p.wdata.getLsbD k
        else if k - 32 < 8 then p.addr.getLsbD (k - 32)
        else if k - 32 - 8 < 2 then p.size.getLsbD (k - 32 - 8)
        else (BitVec.ofBool p.we).getLsbD (k - 32 - 8 - 2)) := by
  simp only [PortIn.word, BitVec.getLsbD_setWidth, BitVec.getLsbD_append]

/-- The bits of an encoded transaction: its KEY above its WDATA (R124). -/
theorem encode_getLsbD (i : Instr) (k : Nat) :
    (encode i).getLsbD k =
      (decide (k < 43) && if k < 32 then i.wdata.getLsbD k else i.key.getLsbD (k - 32)) := by
  simp only [encode, BitVec.getLsbD_setWidth, BitVec.getLsbD_append]

@[simp] theorem PortIn.word_wdata (p : PortIn) : p.word.wdata = p.wdata := by
  apply BitVec.eq_of_getLsbD_eq
  intro k hk
  have h : k < 43 ∧ 0 + k = k := by omega
  simp only [Txn.wdata, BitVec.getLsbD_extractLsb', PortIn.word_getLsbD, hk, h, decide_true, Bool.true_and, if_true]

@[simp] theorem PortIn.word_addr (p : PortIn) : p.word.addr = p.addr := by
  apply BitVec.eq_of_getLsbD_eq
  intro k hk
  have h : 32 + k < 43 ∧ ¬ 32 + k < 32 ∧ 32 + k - 32 = k := by omega
  simp only [Txn.addr, BitVec.getLsbD_extractLsb', PortIn.word_getLsbD, hk, h, decide_true, Bool.true_and, if_true,
    if_false]

@[simp] theorem PortIn.word_size (p : PortIn) : p.word.size = p.size := by
  apply BitVec.eq_of_getLsbD_eq
  intro k hk
  have h : 40 + k < 43 ∧ ¬ 40 + k < 32 ∧ ¬ 40 + k - 32 < 8 ∧ 40 + k - 32 - 8 = k := by omega
  simp only [Txn.size, BitVec.getLsbD_extractLsb', PortIn.word_getLsbD, hk, h, decide_true, Bool.true_and, if_true,
    if_false]

@[simp] theorem PortIn.word_we (p : PortIn) : p.word.we = p.we := by
  rw [Txn.we, PortIn.word_getLsbD]
  simp

/-- Presenting a word puts exactly that word on the port (R121). -/
@[simp] theorem PortIn.ofWord_word (t : Txn) : (PortIn.ofWord t).word = t := by
  apply BitVec.eq_of_getLsbD_eq
  intro k hk
  simp only [PortIn.word_getLsbD, PortIn.ofWord, Txn.we, Txn.size, Txn.addr, Txn.wdata,
    BitVec.getLsbD_extractLsb', hk, decide_true, Bool.true_and]
  split
  · simp [*]
  split
  · simp only [*, decide_true, Bool.true_and]; congr 1; omega
  split
  · simp only [*, decide_true, Bool.true_and]; congr 1; omega
  · have : k = 42 := by omega
    subst this
    simp

@[simp] theorem encode_wdata (i : Instr) : (encode i).wdata = i.wdata := by
  apply BitVec.eq_of_getLsbD_eq
  intro k hk
  have h : k < 43 ∧ 0 + k = k := by omega
  simp only [Txn.wdata, BitVec.getLsbD_extractLsb', encode_getLsbD, hk, h, decide_true, Bool.true_and, if_true]

@[simp] theorem encode_key (i : Instr) : (encode i).key = i.key := by
  apply BitVec.eq_of_getLsbD_eq
  intro k hk
  have h : 32 + k < 43 ∧ ¬ 32 + k < 32 ∧ 32 + k - 32 = k := by omega
  simp only [Txn.key, BitVec.getLsbD_extractLsb', encode_getLsbD, hk, h, decide_true, Bool.true_and, if_false]

/-- Two words with the same KEY and the same WDATA are the same word (R121). -/
theorem Txn.ext_key_wdata {t u : Txn} (hk : t.key = u.key) (hw : t.wdata = u.wdata) : t = u := by
  apply BitVec.eq_of_getLsbD_eq
  intro k h
  by_cases h32 : k < 32
  · have := congrArg (fun w : Word => w.getLsbD k) hw
    simpa [Txn.wdata, h32] using this
  · have := congrArg (fun w : BitVec 11 => w.getLsbD (k - 32)) hk
    have h1 : k - 32 < 11 ∧ 32 + (k - 32) = k := by omega
    simpa [Txn.key, h1] using this

/-- ADDR, SIZE and WE are the fields of KEY (R124). -/
theorem Txn.addr_eq (t : Txn) : t.addr = t.key.extractLsb' 0 8 := by
  apply BitVec.eq_of_getLsbD_eq
  intro k hk
  have h : k < 11 := by omega
  simp [Txn.addr, Txn.key, h]

theorem Txn.size_eq (t : Txn) : t.size = t.key.extractLsb' 8 2 := by
  apply BitVec.eq_of_getLsbD_eq
  intro k hk
  have h : 8 + k < 11 ∧ 32 + (8 + k) = 40 + k := by omega
  simp [Txn.size, Txn.key, h]

theorem Txn.we_eq (t : Txn) : t.we = t.key.getLsbD 10 := by
  simp [Txn.we, Txn.key]

/-- What decoding answers for a KEY and a WDATA word. -/
def decodeKey (k : BitVec 11) (w : Word) : Decoded :=
  if (k.extractLsb' 0 8).extractLsb' 0 2 ≠ 0 then .error .misaligned
  else if k.extractLsb' 8 2 ≠ 2 then .error .size
  else
    match Reg.ofOffset (k.extractLsb' 0 8) with
    | none => .error .unmapped
    | some r =>
      match (if k.getLsbD 10 then r.write w else r.read) with
      | none => .error .access
      | some i => .ok i

/-- Decoding reads a word's KEY and WDATA only (R124). -/
theorem decode_eq_decodeKey (t : Txn) : decode t = decodeKey t.key t.wdata := by
  simp only [decode, decodeKey, Txn.addr_eq, Txn.size_eq, Txn.we_eq] <;> rfl

end Sys2Proof
end

