-- ==== Sys2Proof/Laws/Ops.lean ====
section
/-! SUPPORT. What each shared operation, each transaction, one step and a run of steps can do, said once. -/

namespace Sys2Proof.Machine

/-- The first error is recorded as a whole. -/
@[simp] theorem BusErr.record_of_none {e : BusErr} (h : e.cause = none) (c : BusCause) (we : Bool) (a : Offset) :
    e.record c we a = { cause := some c, ovf := false, addr := a, we := we } := by
  simp [BusErr.record, h]

/-- A later error only sets OVF. -/
@[simp] theorem BusErr.record_of_some {e : BusErr} {k : BusCause} (h : e.cause = some k) (c : BusCause) (we : Bool)
    (a : Offset) : e.record c we a = { e with ovf := true } := by
  simp [BusErr.record, h]

/-- After an error there is always a record. -/
theorem BusErr.record_cause_ne_none (e : BusErr) (c : BusCause) (we : Bool) (a : Offset) :
    (e.record c we a).cause ≠ none := by
  cases h : e.cause <;> simp [h]

/-- Everything that HostTxn can do to the state (R92), by what it does. -/
inductive HostEffect (s : State) : State → Prop where
  | idle : HostEffect s s.portIdle
  | read (v : Word) : HostEffect s (s.readReturns v)
  | timeLo : HostEffect s
      (s.readWithEffect (lowWord s.blk.time) { s.blk with timeHiLatch := highWord s.blk.time })
  | lastLo : HostEffect s
      (s.readWithEffect (lowWord s.blk.last) { s.blk with lastHiLatch := highWord s.blk.last })
  | ctrl (v : Word) (h : startRefused v s.blk = false) : HostEffect s (s.writeCompletes (s.blk.writeCtrl v))
  | events (v : Word) :
      HostEffect s (s.writeCompletes { s.blk with events := s.blk.events &&& ~~~(eventsClear v) })
  | clkdiv (v : Word) (h : s.blk.encEn = false) :
      HostEffect s (s.writeCompletes { s.blk with clkInt := clkdivInt v, clkFrac := clkdivFrac v })
  | push (w : Word) (h : s.blk.encEn = true) (hf : s.blk.fifo.length ≠ s.cfg.fifoDepth) :
      HostEffect s (s.writeCompletes { s.blk with fifo := s.blk.fifo ++ [w] })
  | stall (h : s.blk.encEn = true) (hf : s.blk.fifo.length = s.cfg.fifoDepth) : HostEffect s s.stalls
  | clear : HostEffect s (s.writeCompletes { s.blk with busErr := BusErr.clear })
  | error (c : BusCause) (we : Bool) (a : Offset) (h : c = .config → s.blk.encEn = false) :
      HostEffect s (s.busError c we a)

/-- No decoding error is ERR_CONFIG: it is raised by WR CTRL's own rule only (R310). -/
theorem decode_ne_config (t : Txn) : decode t ≠ .error .config := by
  unfold decode
  repeat' split
  all_goals simp_all

theorem startRefused_stopped {v : Word} {b : Block} (h : startRefused v b = true) : b.encEn = false := by
  unfold startRefused at h
  cases hb : b.encEn <;> simp_all

/-- Every legal transaction answers a next state, by one of the effects. -/
theorem exec_effect (i : Instr) (s : State) : ∃ t, exec i s = .next t ∧ HostEffect s t := by
  cases i with
  | wrCtrl v =>
    by_cases h : startRefused v s.blk = true
    · exact ⟨_, by simp [exec, execWrCtrl, h], .error .config true Reg.ctrl.offset (fun _ => startRefused_stopped h)⟩
    · exact ⟨_, by simp [exec, execWrCtrl, h], .ctrl v (by simpa using h)⟩
  | wrClkdiv v =>
    by_cases h : s.blk.encEn = true
    · exact ⟨_, by simp [exec, execWrClkdiv, h], .error .locked true Reg.clkdiv.offset (by simp)⟩
    · exact ⟨_, by simp [exec, execWrClkdiv, h], .clkdiv v (by simpa using h)⟩
  | wrTxfifo w =>
    by_cases h : s.blk.encEn = true
    · by_cases hf : s.blk.fifo.length = s.cfg.fifoDepth
      · exact ⟨_, by simp [exec, execWrTxfifo, Block.txFull, h, hf], .stall h hf⟩
      · exact ⟨_, by simp [exec, execWrTxfifo, Block.txFull, h, hf], .push w h hf⟩
    · exact ⟨_, by simp [exec, execWrTxfifo, h], .error .notStarted true Reg.txfifo.offset (by simp)⟩
  | wrEvents v => exact ⟨_, rfl, .events v⟩
  | wrBuserr v => exact ⟨_, rfl, .clear⟩
  | rdTimeLo => exact ⟨_, rfl, .timeLo⟩
  | rdLastLo => exact ⟨_, rfl, .lastLo⟩
  | _ => exact ⟨_, rfl, .read _⟩

/-- HostTxn always answers a next state, by one of the effects (R92). -/
theorem hostTxn_effect (p : PortIn) (s : State) : ∃ t, hostTxn p s = .next t ∧ HostEffect s t := by
  unfold hostTxn
  split
  · cases h : decode p.word with
    | ok i => exact exec_effect i s
    | error c => exact ⟨_, rfl, .error _ _ _ (fun hc => absurd (hc ▸ h) (decode_ne_config _))⟩
  · exact ⟨_, rfl, .idle⟩

theorem hostTxn_cases {p : PortIn} {s t : State} (h : hostTxn p s = .next t) : HostEffect s t := by
  obtain ⟨u, hu, he⟩ := hostTxn_effect p s
  rw [hu] at h
  cases h
  exact he

/-- A legal transaction on the port is executed. -/
theorem hostTxn_of_presents {i : Inputs} {ins : Instr} (h : Presents i ins) (s : State) :
    hostTxn i.port s = exec ins s := by
  simp [hostTxn, h.selected, h.decodes]

/-- HostTxn touches none of the fields that the hardware functions write alone (R91), nor the model's own fields. -/
theorem HostEffect.frame {s t : State} (h : HostEffect s t) :
    t.cfg = s.cfg ∧ t.inputs = s.inputs ∧ t.cycle = s.cycle ∧ t.elapsed = s.elapsed ∧
    t.blk.enc = s.blk.enc ∧ t.blk.divAcc = s.blk.divAcc ∧ t.blk.capPre = s.blk.capPre ∧ t.blk.timePre = s.blk.timePre ∧
    t.blk.sync1 = s.blk.sync1 ∧ t.blk.sync2 = s.blk.sync2 ∧ t.blk.sprev = s.blk.sprev ∧
    t.blk.steer = s.blk.steer ∧ t.blk.thr = s.blk.thr ∧ t.blk.time = s.blk.time ∧ t.blk.last = s.blk.last ∧
    t.blk.lastValid = s.blk.lastValid := by
  cases h <;> simp

/-- The cycle that `RunsCycle` describes is the one the step runs. -/
theorem step_of_runs {s : State} {i : Inputs} (h : RunsCycle s i) : step s = runCycle i s := by
  simp [step, advance, h.cfgOk, h.stimulus]

/-- A cycle without reset is HostTxn and the commit of the hardware over it (R90). -/
theorem runCycle_of_host {s s1 : State} {i : Inputs} (hr : i.rst = false) (h : hostTxn i.port s = .next s1) :
    runCycle i s = .next (s.commit i s1) := by
  simp [runCycle, hr, h]

/-- A cycle without reset, by its host effect. -/
theorem runs_cases {s t : State} {i : Inputs} (h : RunsCycle s i) (hs : step s = .next t) :
    ∃ s1, hostTxn i.port s = .next s1 ∧ HostEffect s s1 ∧ t = s.commit i s1 := by
  obtain ⟨s1, h1, he⟩ := hostTxn_effect i.port s
  rw [step_of_runs h, runCycle_of_host h.noReset h1] at hs
  cases hs
  exact ⟨s1, h1, he, rfl⟩

/-- Everything that a step can do (R90): a reset cycle, or a host effect with the hardware committed over it. -/
theorem step_cases {s t : State} (hs : step s = .next t) :
    s.cfg.problem = none ∧ ∃ i, s.stimulus = .cycle i ∧
      ((i.rst = true ∧ t = s.resetCycle) ∨
        (i.rst = false ∧ ∃ s1, hostTxn i.port s = .next s1 ∧ HostEffect s s1 ∧ t = s.commit i s1)) := by
  cases hp : s.cfg.problem with
  | some p => simp [step, advance, hp] at hs
  | none =>
    cases hi : s.stimulus with
    | clockStopped => simp [step, advance, hp, hi] at hs
    | cycle i =>
      refine ⟨rfl, i, rfl, ?_⟩
      cases hr : i.rst with
      | true =>
        simp [step, advance, hp, hi, runCycle, hr] at hs
        exact .inl ⟨rfl, hs.symm⟩
      | false =>
        obtain ⟨s1, h1, he, ht⟩ := runs_cases ⟨hp, hi, hr⟩ hs
        exact .inr ⟨rfl, s1, h1, he, ht⟩

/-- A step keeps the configuration, uses up one stimulus, and counts one cycle of the run. -/
theorem step_environment {s t : State} (hs : step s = .next t) :
    t.cfg = s.cfg ∧ t.inputs = s.inputs.tail ∧ t.elapsed = s.elapsed + 1 := by
  obtain ⟨-, i, -, ⟨-, rfl⟩ | ⟨-, s1, -, he, rfl⟩⟩ := step_cases hs
  · simp
  · simp [he.frame.1]

/-- The next cycle's number: 0 after a reset cycle, else one more (R128, R342). -/
theorem step_cycle {s t : State} {i : Inputs} (hi : s.stimulus = .cycle i) (hs : step s = .next t) :
    t.cycle = if i.rst then 0 else s.cycle + 1 := by
  obtain ⟨-, j, hj, ⟨hr, rfl⟩ | ⟨hr, s1, -, -, rfl⟩⟩ := step_cases hs <;>
    obtain rfl := Stimulus.cycle.inj (hi.symm.trans hj) <;> simp [hr]

/-- The stimulus of the k-th cycle after a step is that of the cycle after it before the step. -/
theorem stimulusAt_of_step {s t : State} (hs : step s = .next t) (k : Nat) : t.stimulusAt k = s.stimulusAt (k + 1) := by
  obtain ⟨-, hi, hc⟩ := step_environment hs
  have : s.inputs.tail[k]? = s.inputs[k + 1]? := by cases s.inputs <;> simp
  simp only [State.stimulusAt, hi, hc, this, show s.elapsed + 1 + k = s.elapsed + (k + 1) by omega]

/-! ## Runs -/

@[simp] theorem State.after_zero (s : State) : s.after 0 = .next s := rfl

/-- The first step of a run. -/
theorem after_succ {n : Nat} {s t : State} (h : s.after (n + 1) = .next t) :
    ∃ u, step s = .next u ∧ u.after n = .next t := by
  simp only [State.after] at h
  cases hs : step s with
  | next u => exact ⟨u, rfl, by simpa [hs] using h⟩
  | fault r => simp [hs] at h
  | refused r => simp [hs] at h

theorem after_succ_of {n : Nat} {s u : State} (h : step s = .next u) : s.after (n + 1) = u.after n := by
  simp [State.after, h]

/-- The last step of a run. -/
theorem after_succ_last {n : Nat} {s t : State} (h : s.after (n + 1) = .next t) :
    ∃ u, s.after n = .next u ∧ step u = .next t := by
  induction n generalizing s with
  | zero =>
    obtain ⟨u, hu, ht⟩ := after_succ h
    exact ⟨s, rfl, by cases ht; exact hu⟩
  | succ n ih =>
    obtain ⟨u, hu, ht⟩ := after_succ h
    obtain ⟨v, hv, hw⟩ := ih ht
    exact ⟨v, by rw [after_succ_of hu]; exact hv, hw⟩

theorem after_succ_of_last {n : Nat} {s u t : State} (h : s.after n = .next u) (hs : step u = .next t) :
    s.after (n + 1) = .next t := by
  induction n generalizing s with
  | zero => cases h; simp [State.after, hs]
  | succ n ih =>
    obtain ⟨v, hv, hw⟩ := after_succ h
    rw [after_succ_of hv]
    exact ih hw

theorem stimulusAt_of_after {n : Nat} {s t : State} (h : s.after n = .next t) (k : Nat) :
    t.stimulusAt k = s.stimulusAt (n + k) := by
  induction n generalizing s with
  | zero => cases h; simp
  | succ n ih =>
    obtain ⟨u, hu, ht⟩ := after_succ h
    rw [ih ht, stimulusAt_of_step hu]
    congr 1
    omega

theorem cfg_of_after {n : Nat} {s t : State} (h : s.after n = .next t) : t.cfg = s.cfg := by
  induction n generalizing s with
  | zero => cases h; rfl
  | succ n ih =>
    obtain ⟨u, hu, ht⟩ := after_succ h
    rw [ih ht, (step_environment hu).1]

theorem Undisturbed.tail {n : Nat} {s u : State} (h : Undisturbed (n + 1) s) (hu : step s = .next u) :
    Undisturbed n u := by
  intro k hk
  rw [stimulusAt_of_step hu]
  exact h (k + 1) (by omega)

theorem Undisturbed.mono {n m : Nat} {s : State} (h : Undisturbed n s) (hm : m ≤ n) : Undisturbed m s :=
  fun k hk => h k (by omega)

theorem Undisturbed.runs {n : Nat} {s u : State} (h : Undisturbed (n + 1) s) (hu : step s = .next u) :
    ∃ i, RunsCycle s i := by
  obtain ⟨i, hi, hr⟩ := h 0 (by omega)
  exact ⟨i, (step_cases hu).1, hi, hr⟩

/-- A property that every cycle without reset keeps holds along an undisturbed run. -/
theorem after_keeps {P : State → Prop}
    (hstep : ∀ s t i, P s → RunsCycle s i → step s = .next t → P t)
    {n : Nat} {s t : State} (hu : Undisturbed n s) (h : s.after n = .next t) (h0 : P s) : P t := by
  induction n generalizing s with
  | zero => cases h; exact h0
  | succ n ih =>
    obtain ⟨u, hs, ht⟩ := after_succ h
    obtain ⟨i, hi⟩ := hu.runs hs
    exact ih (hu.tail hs) ht (hstep s u i h0 hi hs)

/-- An undisturbed run of a legal configuration reaches its end. -/
theorem after_exists {n : Nat} {s : State} (hp : s.cfg.problem = none) (hu : Undisturbed n s) :
    ∃ t, s.after n = .next t := by
  induction n generalizing s with
  | zero => exact ⟨s, rfl⟩
  | succ n ih =>
    obtain ⟨i, hi, hr⟩ := hu 0 (by omega)
    obtain ⟨s1, h1, -⟩ := hostTxn_effect i.port s
    have hs : step s = .next (s.commit i s1) := by
      rw [step_of_runs ⟨hp, hi, hr⟩, runCycle_of_host hr h1]
    rw [after_succ_of hs]
    exact ih (by rw [(step_environment hs).1]; exact hp) (hu.tail hs)

end Sys2Proof.Machine
end

