-- ==== Sys2Proof/Laws/PerInstr.lean ====
section
/-! SUPPORT. The family of statements that hold of every transaction as syntax: its encoding is a legal transaction word. -/

namespace Sys2Proof.Laws.EncodeWellFormed

/-- The encoding of `i` is legal: aligned, word-sized, mapped and permitted (R121, R125). -/
def Statement (i : Instr) : Prop := i.wellFormed = true

/-- Legality is a matter of the KEY alone. -/
theorem of_key {i : Instr} (k : BitVec 11) (hk : i.key = k)
    (h : ((k.extractLsb' 0 8).toNat % 4 == 0 && k.extractLsb' 8 2 == 2 && decide ((k.extractLsb' 0 8).toNat < 0x48) &&
      (if k.getLsbD 10 then
        !(k.extractLsb' 0 8 == 0x04 || (0x14 ≤ (k.extractLsb' 0 8).toNat && (k.extractLsb' 0 8).toNat ≤ 0x40))
      else !(k.extractLsb' 0 8 == 0x10))) = true) : Statement i := by
  subst hk
  simpa only [Statement, Instr.wellFormed, Txn.wellFormed, Txn.aligned, Txn.wordSized, Txn.mapped, Txn.permitted,
    Txn.addr_eq, Txn.size_eq, Txn.we_eq, encode_key] using h

theorem rdCtrl : Statement .rdCtrl := of_key 0x200 rfl (by decide)
theorem wrCtrl (v : Word) : Statement (.wrCtrl v) := of_key 0x600 rfl (by decide)
theorem rdStatus : Statement .rdStatus := of_key 0x204 rfl (by decide)
theorem rdEvents : Statement .rdEvents := of_key 0x208 rfl (by decide)
theorem wrEvents (v : Word) : Statement (.wrEvents v) := of_key 0x608 rfl (by decide)
theorem rdClkdiv : Statement .rdClkdiv := of_key 0x20C rfl (by decide)
theorem wrClkdiv (v : Word) : Statement (.wrClkdiv v) := of_key 0x60C rfl (by decide)
theorem wrTxfifo (v : Word) : Statement (.wrTxfifo v) := of_key 0x610 rfl (by decide)
theorem rdSteerWidth : Statement .rdSteerWidth := of_key 0x214 rfl (by decide)
theorem rdThrWidth : Statement .rdThrWidth := of_key 0x218 rfl (by decide)
theorem rdSteerCnt : Statement .rdSteerCnt := of_key 0x21C rfl (by decide)
theorem rdThrCnt : Statement .rdThrCnt := of_key 0x220 rfl (by decide)
theorem rdTimeLo : Statement .rdTimeLo := of_key 0x224 rfl (by decide)
theorem rdTimeHi : Statement .rdTimeHi := of_key 0x228 rfl (by decide)
theorem rdLastLo : Statement .rdLastLo := of_key 0x22C rfl (by decide)
theorem rdLastHi : Statement .rdLastHi := of_key 0x230 rfl (by decide)
theorem rdWdtThresh : Statement .rdWdtThresh := of_key 0x234 rfl (by decide)
theorem rdWdt : Statement .rdWdt := of_key 0x238 rfl (by decide)
theorem rdParam0 : Statement .rdParam0 := of_key 0x23C rfl (by decide)
theorem rdParam1 : Statement .rdParam1 := of_key 0x240 rfl (by decide)
theorem rdBuserr : Statement .rdBuserr := of_key 0x244 rfl (by decide)
theorem wrBuserr (v : Word) : Statement (.wrBuserr v) := of_key 0x644 rfl (by decide)

end Sys2Proof.Laws.EncodeWellFormed
end

