-- ==== Sys2Proof/Laws/Units.lean ====
section
/-! SUPPORT. What the hardware functions of a cycle do: the bits they set, the divider, the serializer and the channels. -/

namespace Sys2Proof.Machine

/-! ## Bits -/

theorem eventsSet_getLsbD (b : Block) :
    b.eventsSet.getLsbD 0 = b.captures 0 ∧ b.eventsSet.getLsbD 1 = b.captures 1 ∧
      b.eventsSet.getLsbD 2 = b.recordsUpdate := by
  simp only [Block.eventsSet, BitVec.getLsbD_setWidth, BitVec.getLsbD_append]
  simp

theorem inputPins_getLsbD (i : Inputs) :
    (inputPins i).getLsbD 0 = i.steer ∧ (inputPins i).getLsbD 1 = i.thr ∧ (inputPins i).getLsbD 2 = i.upd := by
  simp only [inputPins, BitVec.getLsbD_setWidth, BitVec.getLsbD_append]
  simp

/-- `fall[c]` is `sprev[c]` and not `sync2[c]` (R234). -/
theorem falls_getLsbD (b : Block) {c : Nat} (h : c < 3) :
    b.falls.getLsbD c = (b.sprev.getLsbD c && !b.sync2.getLsbD c) := by
  simp [Block.falls, h]

/-! ## The divider (R181) -/

theorem encTick_stopped {b : Block} (h : b.encEn = false) : b.encTick = false := by simp [Block.encTick, h]

theorem nextDivAcc_stopped {b : Block} (h : b.encEn = false) : b.nextDivAcc = b.divAcc := by
  simp [Block.nextDivAcc, h]

/-- A running divider keeps its remainder below Dfix, for every legal divisor. -/
theorem nextDivAcc_lt {b : Block} (he : b.encEn = true) (hd : 256 ≤ b.dfix) (ha : b.divAcc < b.dfix) :
    b.nextDivAcc < b.dfix := by
  simp only [Block.nextDivAcc, Block.encTick, he, Bool.true_and, decide_eq_true_eq, if_true]
  split <;> omega

theorem dfix_ge {b : Block} (h : 1 ≤ b.clkInt.toNat) : 256 ≤ b.dfix := by
  unfold Block.dfix
  omega

/-! ## The serializer (R202) -/

/-- Finishing an encoder cycle changes neither the word nor the kind of the unit. -/
theorem finishCycle_some {c : Config} {e e' : Encoder} (h : e.finishCycle c = some e') :
    e'.st = e.st ∧ e'.osr = e.osr ∧
      ((e.st = .bit ∧ e.phase < c.bitCycles - 1 ∧ e'.phase = e.phase + 1 ∧ e'.bitidx = e.bitidx ∧ e'.gcnt = e.gcnt) ∨
       (e.st = .bit ∧ ¬ e.phase < c.bitCycles - 1 ∧ e.bitidx < c.pullBits - 1 ∧ e'.phase = 0 ∧
          e'.bitidx = e.bitidx + 1 ∧ e'.gcnt = e.gcnt) ∨
       (e.st = .gap ∧ 1 < e.gcnt ∧ e'.gcnt = e.gcnt - 1 ∧ e'.phase = e.phase ∧ e'.bitidx = e.bitidx)) := by
  unfold Encoder.finishCycle at h
  cases hs : e.st <;> simp only [hs] at h
  · cases h
  · split at h
    · cases h; simp_all
    · split at h
      · cases h; simp_all
      · cases h
  · split at h
    · cases h; simp_all
    · cases h

/-- The new unit, by the head of the queue (R200, R203, R205, R207). -/
theorem startUnit_cases (c : Config) (q : List Word) (e : Encoder) :
    (q = [] ∧ e.startUnit c q.head? = { e with st := .idle }) ∨
    (∃ r, q = 0#32 :: r ∧ e.startUnit c q.head? = { e with st := .gap, gcnt := c.resetCycles }) ∨
    (∃ w r, w ≠ 0 ∧ q = w :: r ∧
      e.startUnit c q.head? = { e with st := .bit, osr := w, bitidx := 0, phase := 0 }) := by
  cases q with
  | nil => exact .inl ⟨rfl, rfl⟩
  | cons w r =>
    by_cases h : w = 0
    · subst h; exact .inr (.inl ⟨r, rfl, by simp [Encoder.startUnit]⟩)
    · exact .inr (.inr ⟨w, r, h, rfl, by simp only [Encoder.startUnit, List.head?_cons, if_neg h]⟩)

/-- Everything that a tick does to the encoder (R202). -/
theorem onTick_cases (c : Config) (q : List Word) (e : Encoder) :
    (∃ e', e.finishCycle c = some e' ∧ e.onTick c q = e'.drive c) ∨
    (e.finishCycle c = none ∧ e.onTick c q = (e.startUnit c q.head?).drive c) := by
  unfold Encoder.onTick
  cases h : e.finishCycle c with
  | some e' => exact .inl ⟨e', rfl, rfl⟩
  | none => exact .inr ⟨rfl, rfl⟩

/-- The legal ranges, as inequalities. -/
theorem problem_none {c : Config} (h : c.problem = none) :
    1 ≤ c.t1 ∧ 1 ≤ c.t2 ∧ 1 ≤ c.t3 ∧ 1 ≤ c.pullBits ∧ c.pullBits ≤ 32 ∧ 1 ≤ c.fifoDepth ∧ c.fifoDepth ≤ 255 ∧
      1 ≤ c.resetPeriods ∧ c.resetPeriods ≤ 65535 ∧ 1 ≤ c.capDiv ∧ 1 ≤ c.timeDiv ∧ c.wdtThreshold < 2 ^ 32 := by
  unfold Config.problem at h
  repeat' split at h
  all_goals first | cases h; done | omega

theorem bitCycles_pos {c : Config} (h : c.problem = none) : 3 ≤ c.bitCycles := by
  have := problem_none h
  unfold Config.bitCycles
  omega

theorem resetCycles_pos {c : Config} (h : c.problem = none) : 1 ≤ c.resetCycles := by
  have h1 := (problem_none h).2.2.2.2.2.2.2.1
  have h2 := bitCycles_pos h
  unfold Config.resetCycles
  exact Nat.mul_pos h1 (by omega)

/-- The ranges of the encoder's fields (R57) and the level of the current encoder cycle (R204). -/
structure Encoder.InRange (c : Config) (e : Encoder) : Prop where
  bitidx : e.bitidx < c.pullBits
  phase : e.phase < c.bitCycles
  gcnt : e.gcnt ≤ c.resetCycles
  inGap : e.st = .gap → 1 ≤ e.gcnt
  dout : e.dout = level c e.st e.osr e.bitidx e.phase

/-- A tick keeps the encoder's fields in their ranges. -/
theorem onTick_inRange {c : Config} (hc : c.problem = none) (q : List Word) {e : Encoder} (h : e.InRange c) :
    (e.onTick c q).InRange c := by
  have hb := bitCycles_pos hc
  have hr := resetCycles_pos hc
  have hp := (problem_none hc).2.2.2.1
  obtain ⟨h1, h2, h3, h4, -⟩ := h
  obtain ⟨e', he, ht⟩ | ⟨-, ht⟩ := onTick_cases c q e
  · rw [ht]
    obtain ⟨hs, -, ⟨-, ha, hb', hc', hd⟩ | ⟨-, -, ha, hb', hc', hd⟩ | ⟨-, ha, hb', hc', hd⟩⟩ := finishCycle_some he
    all_goals constructor <;> simp only [Encoder.drive_st, Encoder.drive_bitidx, Encoder.drive_phase, Encoder.drive_gcnt,
      Encoder.drive_dout, Encoder.drive_osr, hb', hc', hd, hs] <;> omega
  · rw [ht]
    obtain ⟨-, hs⟩ | ⟨r, -, hs⟩ | ⟨w, r, -, -, hs⟩ := startUnit_cases c q e
    all_goals rw [hs]; constructor <;> simp <;> omega

/-- A cycle keeps the encoder's fields in their ranges. -/
theorem nextEnc_inRange {c : Config} (hc : c.problem = none) {b : Block} (h : b.enc.InRange c) :
    (b.nextEnc c).InRange c := by
  unfold Block.nextEnc
  split
  · exact onTick_inRange hc _ h
  · exact h

/-- A pop takes a queued word (R191). -/
theorem pops_fifo {c : Config} {b : Block} (h : b.pops c = true) :
    b.encTick = true ∧ b.enc.finishCycle c = none ∧ b.fifo ≠ [] := by
  simp only [Block.pops, Bool.and_eq_true, Option.isNone_iff_eq_none, Bool.not_eq_true', List.isEmpty_eq_false_iff] at h
  exact ⟨h.1.1, h.1.2, h.2⟩

/-! ## The channels and prescalers -/

theorem nextCapPre_lt {c : Config} (h : 1 ≤ c.capDiv) {b : Block} (hb : b.capPre < c.capDiv) :
    b.nextCapPre c < c.capDiv := by
  simp only [Block.nextCapPre, Block.capTick, beq_iff_eq]
  split <;> omega

theorem nextTimePre_lt {c : Config} (h : 1 ≤ c.timeDiv) {b : Block} (hb : b.timePre < c.timeDiv) :
    b.nextTimePre c < c.timeDiv := by
  simp only [Block.nextTimePre, Block.timeTick, beq_iff_eq]
  split <;> omega

/-- A channel that neither captures nor counts is unchanged. -/
@[simp] theorem Capture.next_quiet (p : Capture) : p.next false false = p := rfl

@[simp] theorem Capture.next_captures (p : Capture) (k : Bool) : p.next true k = { cnt := 0, width := p.cnt } := rfl

@[simp] theorem Capture.next_counts (p : Capture) : p.next false true = { p with cnt := p.cnt + 1 } := rfl

theorem captures_off {b : Block} (h : b.decEn = false) (c : Nat) : b.captures c = false := by simp [Block.captures, h]

theorem counts_off {b : Block} (h : b.decEn = false) (cfg : Config) (c : Nat) : b.counts cfg c = false := by
  simp [Block.counts, h]

theorem recordsUpdate_off {b : Block} (h : b.wdtEn = false) : b.recordsUpdate = false := by
  simp [Block.recordsUpdate, h]

end Sys2Proof.Machine
end

