-- ==== Sys2Proof/Tests/Slice0.lean ====
section
/-! SUPPORT. The model's own tests: decoding of words written out from 30_encoding.md R124 and R131, ill-formed terms, one
step per transaction with results from 95_test_vectors.md (its vector is named at each), and for every statement with
hypotheses a witness that meets them. -/

namespace Sys2Proof.Tests

open Sys2Proof.Machine

/-! ## Helpers -/

/-- The vector configuration VC of 95_test_vectors.md section 0. -/
def vc : Config := { resetPeriods := 2, sysClkHz := 1000000, capDiv := 1, timeDiv := 1 }

/-- A configuration whose longest unit is three encoder cycles. -/
def tiny : Config :=
  { t1 := 1, t2 := 1, t3 := 1, pullBits := 1, fifoDepth := 1
    resetPeriods := 1, sysClkHz := 1000000, capDiv := 1, timeDiv := 1 }

/-- The inputs of a cycle that presents the word `t`. -/
def drive (t : Txn) : Inputs := { rst := false, port := PortIn.ofWord t, steer := false, thr := false, upd := false }

/-- The inputs of a cycle without a transaction. -/
def quiet : Inputs := { rst := false, port := PortIn.idle, steer := false, thr := false, upd := false }

/-- A machine under `c` with the block `b` and the inputs `l`. -/
def mk (c : Config) (b : Block) (l : List Inputs) : State :=
  { cfg := c, blk := b, out := PortOut.okay, inputs := l.map .cycle, cycle := 0, elapsed := 0 }

/-- The block and the response after one step of VC that presents `t`. -/
def one (b : Block) (t : Txn) : Option (Block × PortOut) :=
  match step (mk vc b [drive t]) with
  | .next u => some (u.blk, u.out)
  | .fault _ => none
  | .refused _ => none

/-- The data of a successful one-step read. -/
def reads (b : Block) (t : Txn) : Option Word :=
  match one b t with
  | some (_, o) => if o.ready && !o.resp then some o.rdata else none
  | none => none

/-- ENC_EN, with VC's divisor 1.0. -/
def running : Block := { Block.reset with encEn := true }

/-! ## Decoding: one word for each row of R124 -/

theorem test_decode_rdCtrl : decode 0x20000000000#43 = .ok .rdCtrl := by decide
theorem test_decode_wrCtrl : decode 0x60000000507#43 = .ok (.wrCtrl 0x507) := by decide
theorem test_decode_rdStatus : decode 0x20400000000#43 = .ok .rdStatus := by decide
theorem test_decode_rdEvents : decode 0x20800000000#43 = .ok .rdEvents := by decide
theorem test_decode_wrEvents : decode 0x60800000004#43 = .ok (.wrEvents 4) := by decide
theorem test_decode_rdClkdiv : decode 0x20C00000000#43 = .ok .rdClkdiv := by decide
theorem test_decode_wrClkdiv : decode 0x60C00068500#43 = .ok (.wrClkdiv 0x68500) := by decide
theorem test_decode_wrTxfifo : decode 0x610FF123456#43 = .ok (.wrTxfifo 0xFF123456) := by decide
theorem test_decode_rdSteerWidth : decode 0x21400000000#43 = .ok .rdSteerWidth := by decide
theorem test_decode_rdThrWidth : decode 0x21800000000#43 = .ok .rdThrWidth := by decide
theorem test_decode_rdSteerCnt : decode 0x21C00000000#43 = .ok .rdSteerCnt := by decide
theorem test_decode_rdThrCnt : decode 0x22000000000#43 = .ok .rdThrCnt := by decide
theorem test_decode_rdTimeLo : decode 0x22400000000#43 = .ok .rdTimeLo := by decide
theorem test_decode_rdTimeHi : decode 0x22800000000#43 = .ok .rdTimeHi := by decide
theorem test_decode_rdLastLo : decode 0x22C00000000#43 = .ok .rdLastLo := by decide
theorem test_decode_rdLastHi : decode 0x23000000000#43 = .ok .rdLastHi := by decide
theorem test_decode_rdWdtThresh : decode 0x23400000000#43 = .ok .rdWdtThresh := by decide
theorem test_decode_rdWdt : decode 0x23800000000#43 = .ok .rdWdt := by decide
theorem test_decode_rdParam0 : decode 0x23C00000000#43 = .ok .rdParam0 := by decide
theorem test_decode_rdParam1 : decode 0x24000000000#43 = .ok .rdParam1 := by decide
theorem test_decode_rdBuserr : decode 0x24400000000#43 = .ok .rdBuserr := by decide
theorem test_decode_wrBuserr : decode 0x64400000000#43 = .ok (.wrBuserr 0) := by decide

/-- A read ignores WDATA (R121, R126). -/
theorem test_decode_read_ignores_wdata : decode 0x238FFFFFFFF#43 = .ok .rdWdt := by decide

/-- V-E1 and V-E2: the error encodings, with the first failing check as the cause. -/
theorem test_decode_errors :
    decode 0x20100000000#43 = .error .misaligned ∧ decode 0x50E00001234#43 = .error .misaligned ∧
    decode 0x64900000000#43 = .error .misaligned ∧ decode 0x44500000000#43 = .error .misaligned ∧
    decode 0x05000000000#43 = .error .size ∧ decode 0x30400000000#43 = .error .size ∧
    decode 0x14800000000#43 = .error .size ∧ decode 0x40400000000#43 = .error .size ∧
    decode 0x24800000000#43 = .error .unmapped ∧ decode 0x6FC00000000#43 = .error .unmapped ∧
    decode 0x60400000000#43 = .error .access ∧ decode 0x64000000000#43 = .error .access ∧
    decode 0x21000000000#43 = .error .access := by decide

/-- A number of more than 43 bits is no transaction word, and the low `nbits` bits are the word. -/
theorem test_decodeTableWord :
    decodeTableWord 48 0x60000000001 = some (.wrCtrl 1) ∧ decodeTableWord 43 0x23800000000 = some .rdWdt ∧
    decodeTableWord 48 0x860000000001 = none ∧ decodeTableWord 48 0x21000000000 = none := by decide

/-- The word that `withFetchWord` presents is the one that the next step runs: WR CTRL, 0x2 sets DEC_EN. -/
theorem test_withFetchWord :
    (match step (State.reset.withFetchWord 48 0x60000000002) with
      | .next t => t.blk.decEn && t.out == PortOut.okay
      | .fault _ => false
      | .refused _ => false) = true := by decide

/-! ## Well-formedness: an ill-formed term for each check -/

theorem test_wf_legal : (0x60000000001 : Txn).wellFormed = true := by decide
theorem test_wf_misaligned : (0x20100000000 : Txn).wellFormed = false := by decide
theorem test_wf_size :
    (0x00400000000 : Txn).wellFormed = false ∧ (0x10400000000 : Txn).wellFormed = false ∧
    (0x30400000000 : Txn).wellFormed = false := by decide
theorem test_wf_unmapped :
    (0x24800000000 : Txn).wellFormed = false ∧ (0x6FC00000000 : Txn).wellFormed = false := by decide
theorem test_wf_readOnly :
    (0x60400000000 : Txn).wellFormed = false ∧ (0x61400000000 : Txn).wellFormed = false ∧
    (0x64000000000 : Txn).wellFormed = false := by decide
theorem test_wf_writeOnly : (0x21000000000 : Txn).wellFormed = false := by decide

theorem test_config_legal : vc.problem = none ∧ tiny.problem = none ∧ Config.chosen.problem = none := by decide
theorem test_config_t1 : { vc with t1 := 0 }.problem = some .t1IsZero := by decide
theorem test_config_t2 : { vc with t2 := 0 }.problem = some .t2IsZero := by decide
theorem test_config_t3 : { vc with t3 := 0 }.problem = some .t3IsZero := by decide
theorem test_config_pullBits :
    { vc with pullBits := 0 }.problem = some .pullBitsOutOfRange ∧
    { vc with pullBits := 33 }.problem = some .pullBitsOutOfRange ∧ { vc with pullBits := 32 }.problem = none := by decide
theorem test_config_fifoDepth :
    { vc with fifoDepth := 0 }.problem = some .fifoDepthOutOfRange ∧
    { vc with fifoDepth := 256 }.problem = some .fifoDepthOutOfRange ∧ { vc with fifoDepth := 255 }.problem = none := by
  decide
theorem test_config_resetPeriods :
    { vc with resetPeriods := 0 }.problem = some .resetPeriodsOutOfRange ∧
    { vc with resetPeriods := 65536 }.problem = some .resetPeriodsOutOfRange ∧
    { vc with resetPeriods := 65535 }.problem = none := by decide
theorem test_config_capDiv :
    { vc with capDiv := 0 }.problem = some .capDivOutOfRange ∧
    { vc with capDiv := 65537 }.problem = some .capDivOutOfRange ∧ { vc with capDiv := 65536 }.problem = none := by decide
theorem test_config_timeDiv :
    { vc with timeDiv := 0 }.problem = some .timeDivOutOfRange ∧
    { vc with timeDiv := 65537 }.problem = some .timeDivOutOfRange ∧ { vc with timeDiv := 65536 }.problem = none := by
  decide
theorem test_config_threshold :
    { vc with sysClkHz := 42949672960 }.problem = some .wdtThresholdTooLarge ∧
    { vc with sysClkHz := 42949672959 }.problem = none := by decide

/-! ## One step of each transaction -/

/-- V-R2, cycles 2 and 3. -/
theorem test_rdCtrl :
    reads { running with decEn := true, wdtEn := true, irqEn := 7 } 0x20000000000#43 = some 0x707 ∧
    reads { running with decEn := true, wdtEn := true, irqEn := 1 } 0x20000000000#43 = some 0x107 := by decide

/-- V-R2, cycle 3: IRQ_EN is replaced and the enables are kept. -/
theorem test_wrCtrl_keeps :
    (one { running with decEn := true, wdtEn := true, irqEn := 7 } 0x60000000100#43).map
      (fun r => (r.1.ctrlValue, r.2)) = some (0x107, PortOut.okay) := by decide

/-- V-E3, step 2: a refused start sets nothing but `cfg_err` and BUSERR. -/
theorem test_wrCtrl_refused :
    (one { Block.reset with clkInt := 0 } 0x60000000007#43).map
      (fun r => (r.1.ctrlValue, r.1.statusValue vc, r.1.busErr.value, r.2.resp)) = some (0, 5, 0x10007, true) := by decide

/-- V-R3: the rows of the STATUS table. -/
theorem test_rdStatus :
    reads Block.reset 0x20400000000#43 = some 0x1 ∧
    reads { running with fifo := [1, 2], enc := { Encoder.reset with st := .bit, bitidx := 23 } } 0x20400000000#43
      = some 0x170210 ∧
    reads { running with fifo := [1], enc := { Encoder.reset with st := .gap, bitidx := 23 } } 0x20400000000#43
      = some 0x120 ∧
    reads { running with fifo := [1, 2, 3, 4], enc := { Encoder.reset with st := .bit } } 0x20400000000#43
      = some 0x412 := by decide

/-- V-R3, the last two rows. -/
theorem test_rdStatus_flags :
    reads { Block.reset with cfgErr := true } 0x20400000000#43 = some 0x5 ∧
    reads { Block.reset with events := 1, irqEn := 1 } 0x20400000000#43 = some 0x9 := by decide

/-- V-P1 row 3: both captures. -/
theorem test_rdEvents : reads { Block.reset with events := 3 } 0x20800000000#43 = some 0x3 := by decide

/-- R155's example, and a mask in bits 31:3 clears nothing. -/
theorem test_wrEvents :
    (one { Block.reset with events := 5 } 0x60800000004#43).map (fun r => r.1.events) = some 1 ∧
    (one { Block.reset with events := 7 } 0x608FFFFFFF8#43).map (fun r => r.1.events) = some 7 := by decide

/-- V-R4, cycle 22: a clear that meets the capture leaves the event set, and the width is 10. -/
theorem test_wrEvents_set_wins :
    (one { Block.reset with decEn := true, sprev := 1, events := 1, steer := { cnt := 10, width := 0 } }
      0x60800000001#43).map (fun r => (r.1.events, r.1.steer.width, r.1.steer.cnt)) = some (1, 10, 0) := by decide

/-- V-R1. -/
theorem test_rdClkdiv : reads Block.reset 0x20C00000000#43 = some 0x10000 := by decide

/-- R186's example: INT = 6, FRAC = 133, Dfix = 1669. -/
theorem test_wrClkdiv :
    (one Block.reset 0x60C00068500#43).map (fun r => (r.1.clkInt, r.1.clkFrac, r.1.dfix)) = some (6, 133, 1669) := by
  decide

/-- P5, cycle 534: ERR(5), and the divisor is unchanged. -/
theorem test_wrClkdiv_locked :
    (one running 0x60C00020000#43).map (fun r => (r.1.clkdivValue, r.1.busErr.value, r.2.resp))
      = some (0x10000, 0x10C05, true) := by decide

/-- V-Q1: a pop and a push in one cycle. -/
theorem test_wrTxfifo_pop_and_push :
    (one { running with fifo := [0xFF000001] } 0x610FF000002#43).map (fun r => (r.1.fifo, r.1.enc.osr, r.1.dout))
      = some ([0xFF000002], 0xFF000001, true) := by decide

/-- P1, cycle 4: ERR(6) before the start; P5, cycle 7: a stall is no error (V-E4). -/
theorem test_wrTxfifo_not_started_and_stall :
    (one Block.reset 0x610FF000001#43).map (fun r => (r.1.fifo, r.1.busErr.value, r.2.resp)) = some ([], 0x11006, true) ∧
    (one { running with fifo := [2, 3, 4, 5], enc := { Encoder.reset with st := .bit, osr := 1 } } 0x610FF000006#43).map
      (fun r => (r.1.fifo, r.1.busErr.value, r.2.ready)) = some ([2, 3, 4, 5], 0, false) := by decide

/-- V-P1 row 1, with the throttle at 50. -/
theorem test_rdWidths :
    reads { Block.reset with steer := { cnt := 0, width := 1200 } } 0x21400000000#43 = some 0x4B0 ∧
    reads { Block.reset with thr := { cnt := 0, width := 50 } } 0x21800000000#43 = some 0x32 := by decide

/-- P2, cycle 1211, and the same for the throttle; the counter wraps (R238). -/
theorem test_rdCounters :
    reads { Block.reset with steer := { cnt := 1199, width := 0 } } 0x21C00000000#43 = some 0x4AF ∧
    reads { Block.reset with thr := { cnt := 10, width := 0 } } 0x22000000000#43 = some 0xA ∧
    (one { Block.reset with decEn := true, sync2 := 2, thr := { cnt := 0xFFFF, width := 7 } } 0x22000000000#43).map
      (fun r => (r.1.thr.cnt, r.1.thr.width)) = some (0, 7) := by decide

/-- V-W4: the LO read latches, and the time base moves on. -/
theorem test_rdTimeLo :
    (one { Block.reset with time := 0x1FFFFFFFF } 0x22400000000#43).map
      (fun r => (r.2.rdata, r.1.timeHiLatch, r.1.time)) = some (0xFFFFFFFF, 1, 0x200000000) := by decide

/-- V-W4: the HI read returns the latch, not the live word. -/
theorem test_rdTimeHi :
    reads { Block.reset with time := 0x200000000, timeHiLatch := 1 } 0x22800000000#43 = some 1 := by decide

/-- The examples of R272 and R273. -/
theorem test_rdLast :
    (one { Block.reset with last := 0x300000010 } 0x22C00000000#43).map (fun r => (r.2.rdata, r.1.lastHiLatch))
      = some (0x10, 3) ∧
    reads { Block.reset with lastHiLatch := 3 } 0x23000000000#43 = some 3 := by decide

/-- V-W5. -/
theorem test_rdWdtThresh :
    reads Block.reset 0x23400000000#43 = some 0x186A0 ∧
    wdtThreshValue { vc with sysClkHz := 125000000 } = 0xBEBC20 ∧ wdtThreshValue { vc with sysClkHz := 1000 } = 0x64 := by
  decide

/-- V-W1: every row but the last. -/
theorem test_rdWdt :
    reads Block.reset 0x23800000000#43 = some 1 ∧
    reads { Block.reset with wdtEn := true } 0x23800000000#43 = some 3 ∧
    reads { Block.reset with wdtEn := true, lastValid := true, last := 1000, time := 101000 } 0x23800000000#43 = some 6 ∧
    reads { Block.reset with wdtEn := true, lastValid := true, last := 1000, time := 101001 } 0x23800000000#43 = some 7 ∧
    reads { Block.reset with wdtEn := true, lastValid := true, last := 0xFFFFFFFFFFFFFFF6, time := 5 } 0x23800000000#43
      = some 6 := by decide

/-- E8, V-R6 and P1. -/
theorem test_rdParams :
    reads Block.reset 0x23C00000000#43 = some 0x18080608 ∧ reads Block.reset 0x24000000000#43 = some 0x20004 ∧
    param1Value { vc with bitOrder := .msbFirst, fifoDepth := 8 } = 0x20108 := by decide

/-- R158's example, and P4, cycles 0 and 2: the first record is kept, OVF is set. -/
theorem test_rdBuserr :
    (one Block.reset 0x24800000000#43).map (fun r => r.1.busErr.value) = some 0x4803 ∧
    (one Block.reset 0x50E00001234#43).map (fun r => r.1.busErr.value) = some 0x10E01 ∧
    (one { Block.reset with busErr := { cause := some .misaligned, ovf := false, addr := 0x0E, we := true } }
      0x05000000000#43).map (fun r => r.1.busErr.value) = some 0x10E09 ∧
    reads { Block.reset with busErr := { cause := some .misaligned, ovf := true, addr := 0x0E, we := true } }
      0x24400000000#43 = some 0x10E09 := by decide

/-- V-R5, cycles 18 and 20: only a legal WR BUSERR clears. -/
theorem test_wrBuserr :
    (one { Block.reset with busErr := { cause := some .size, ovf := true, addr := 4, we := false } } 0x44400000000#43).map
      (fun r => r.1.busErr.value) = some 0x40A ∧
    (one { Block.reset with busErr := { cause := some .size, ovf := true, addr := 4, we := false } } 0x64400000000#43).map
      (fun r => r.1.busErr.value) = some 0 := by decide

/-! ## The hardware functions -/

/-- V-D1, Dfix = 384: the accumulator and the first ticks. -/
theorem test_divider :
    let b := { running with clkInt := 1, clkFrac := 128 }
    b.encTick = false ∧ b.nextDivAcc = 256 ∧ { b with divAcc := 256 }.encTick = true ∧
    { b with divAcc := 256 }.nextDivAcc = 128 ∧ { b with divAcc := 128 }.encTick = true ∧
    { b with divAcc := 128 }.nextDivAcc = 0 := by decide

/-- V-S1 and V-S2: the first bits of 0xFF123456 in each order, and the phases around the bit's edges. -/
theorem test_levels :
    (List.range 8).map (serialBit vc 0xFF123456) = [false, true, true, false, true, false, true, false] ∧
    (List.range 8).map (serialBit { vc with bitOrder := .msbFirst } 0xFF123456)
      = [false, false, false, true, false, false, true, false] ∧
    [7, 8, 13, 14, 21].map (level vc .bit 1 0) = [true, true, true, false, false] ∧
    [7, 8, 13, 14, 21].map (level vc .bit 2 0) = [true, false, false, false, false] := by decide

/-- V-S4: the transitions of cycles 538, 582 and 1110 of program P1. -/
theorem test_encoder_transitions :
    let e : Encoder := { st := .bit, osr := 0xFF000001, bitidx := 23, phase := 21, gcnt := 0, dout := false }
    e.onTick vc [0, 0xFF000001] = { e with st := .gap, gcnt := 44 } ∧
    { e with st := .gap, gcnt := 1 }.onTick vc [0xFF000001]
      = { st := .bit, osr := 0xFF000001, bitidx := 0, phase := 0, gcnt := 1, dout := true } ∧
    { e with gcnt := 1 }.onTick vc [] = { e with st := .idle, gcnt := 1 } := by decide

/-- V-W2: a fall in the cycle with `time = 42` records 42 and sets EV_UPD. -/
theorem test_update_recorded :
    (one { Block.reset with wdtEn := true, sprev := 4, time := 42 } 0x23800000000#43).map
      (fun r => (r.1.last, r.1.lastValid, r.1.events, r.2.rdata)) = some (42, true, 4, 3) := by decide

/-- V-W3: with TIME_DIV = 125 the tick is in the cycle with `time_pre = 124`; V-P2: with CAP_DIV = 4 at `cap_pre = 3`. -/
theorem test_prescalers :
    { Block.reset with timePre := 124 }.nextTime { vc with timeDiv := 125 } = 1 ∧
    { Block.reset with timePre := 123 }.nextTime { vc with timeDiv := 125 } = 0 ∧
    { Block.reset with capPre := 3 }.capTick { vc with capDiv := 4 } = true ∧
    { Block.reset with capPre := 2 }.nextCapPre { vc with capDiv := 4 } = 3 := by decide

/-- E4 and V-H1: the host's functions. -/
theorem test_host_functions :
    serialize 0x12 0x34 0x56 = 0xFF123456 ∧ clkdivFor 125000000 871000 22 = some 0x00068500 ∧
    clkdivFor 133000000 871000 22 = some 0x0006F000 ∧ clkdivFor 48000000 871000 22 = some 0x00028100 ∧
    clkdivFor 19162000 871000 22 = some 0x00010000 ∧ clkdivFor 12000000 871000 22 = none := by decide

/-- R128, R130 and R342: `@3` fills three cycles after a reset, also after one in the middle of a run; a program whose
earlier lines end after cycle k is ill formed. -/
theorem test_startAt_counts_from_reset :
    ((runProgram 9 Levels.low [.startAt 3, lineOf .rdTimeLo] (mk vc Block.reset [])).map
      (fun r => (r.1.cycle, r.2.map (·.rdata)))) = some (4, [3]) ∧
    ((runProgram 9 Levels.low [.startAt 3, lineOf .rdTimeLo] (State.resetCycle { mk vc running [] with cycle := 9 })).map
      (fun r => (r.1.cycle, r.2.map (·.rdata)))) = some (4, [3]) ∧
    (runProgram 9 Levels.low [.idle 2, .startAt 1] (mk vc Block.reset [])).isNone = true := by decide

/-! ## Witnesses: for every statement with hypotheses, a concrete input that meets them together -/

/-- Encoded by the word it came from. -/
theorem witness_EncodeOfDecode :
    decode 0x610FF000001#43 = .ok (.wrTxfifo 0xFF000001) ∧ (0x610FF000001 : Txn).we = true := by decide

/-- A KEY of a row, and one of no row. -/
theorem witness_KeySelectsRow :
    (∃ r ∈ keyRows, (0x64400000000 : Txn).key = r.1) ∧ ∀ r ∈ keyRows, (0x24800000000 : Txn).key ≠ r.1 := by
  refine ⟨⟨(0x644, .wrBuserr), by simp [keyRows], by decide⟩, ?_⟩
  simp only [keyRows, List.forall_mem_cons, List.not_mem_nil, false_imp_iff, implies_true, and_true]
  decide

/-- Each clause at the ends of its range. -/
theorem witness_ErrorEncodingClassified :
    ((0x20100000000 : Txn).addr.toNat % 4 ≠ 0 ∧ (0x2FF00000000 : Txn).addr.toNat % 4 ≠ 0) ∧
    ((0x00000000000 : Txn).addr.toNat % 4 = 0 ∧ (0x00000000000 : Txn).size.toNat ≠ 2) ∧
    ((0x3FC00000000 : Txn).addr.toNat % 4 = 0 ∧ (0x3FC00000000 : Txn).size.toNat ≠ 2) ∧
    ((0x24800000000 : Txn).size.toNat = 2 ∧ (0x24800000000 : Txn).addr.toNat = 0x48) ∧
    ((0x2FC00000000 : Txn).size.toNat = 2 ∧ (0x2FC00000000 : Txn).addr.toNat = 0xFC) ∧
    ((0x60400000000 : Txn).size.toNat = 2 ∧ (0x60400000000 : Txn).we = true ∧
      (0x60400000000 : Txn).addr.toNat = 0x04) ∧
    ((0x61400000000 : Txn).we = true ∧ (0x61400000000 : Txn).addr.toNat = 0x14) ∧
    ((0x64000000000 : Txn).we = true ∧ (0x64000000000 : Txn).addr.toNat = 0x40) ∧
    ((0x21000000000 : Txn).size.toNat = 2 ∧ (0x21000000000 : Txn).we = false ∧
      (0x21000000000 : Txn).addr.toNat = 0x10) := by decide

/-- A cycle of VC with the word `t` on the port runs. -/
theorem runs (b : Block) (t : Txn) (l : List Inputs) : RunsCycle (mk vc b (drive t :: l)) (drive t) :=
  ⟨test_config_legal.1, rfl, rfl⟩

/-- A cycle of VC without a transaction runs. -/
theorem runs_quiet (b : Block) (l : List Inputs) : RunsCycle (mk vc b (quiet :: l)) quiet :=
  ⟨test_config_legal.1, rfl, rfl⟩

/-- A word on the port that decodes is presented. -/
theorem presents {t : Txn} {ins : Instr} (h : decode t = .ok ins) : Presents (drive t) ins :=
  ⟨rfl, by rw [drive, PortIn.ofWord_word]; exact h⟩

theorem witness_StepRunsDecodedTransaction :
    ∃ s s1 i ins, RunsCycle s i ∧ Presents i ins ∧ exec ins s = .next s1 :=
  ⟨_, _, _, .wrCtrl 1, runs Block.reset 0x60000000001 [], presents (by decide), rfl⟩

theorem witness_RunningClockNeverStops :
    (∃ s i, s.cfg.problem = none ∧ State.stimulus s = .cycle i) ∧
    ∃ s, s.cfg.problem = none ∧ State.stimulus s = .clockStopped :=
  ⟨⟨mk vc Block.reset [quiet], quiet, by decide, rfl⟩,
   ⟨{ mk vc Block.reset [] with inputs := [.clockStopped] }, by decide, rfl⟩⟩

theorem witness_BadConfigurationRefused :
    (mk { vc with t2 := 0 } Block.reset [quiet]).cfg.problem = some .t2IsZero := by decide

theorem witness_ResetCycleGivesResetState :
    let s := mk vc { running with fifo := [1] } [{ quiet with rst := true }]
    s.cfg.problem = none ∧ s.stimulus = .cycle { quiet with rst := true } := ⟨by decide, rfl⟩

/-- A reset in the middle of a run, with two cycles after it. -/
theorem witness_CyclesAreNumberedFromReset :
    ∃ n s u t i, State.stimulus s = .cycle i ∧ i.rst = true ∧ step s = .next u ∧ Undisturbed n u ∧ u.after n = .next t ∧
      s.cycle = 9 := by
  refine ⟨2, { mk vc running [{ quiet with rst := true }, quiet, quiet] with cycle := 9, elapsed := 9 }, _, _,
    { quiet with rst := true }, rfl, rfl, rfl, ?_, rfl, rfl⟩
  intro k hk
  interval_cases k <;> exact ⟨quiet, rfl, rfl⟩

theorem witness_ReadsAfterReset :
    vc.t1 = 8 ∧ vc.t2 = 6 ∧ vc.t3 = 8 ∧ vc.pullBits = 24 ∧ vc.problem = none ∧ vc.bitOrder = .lsbFirst ∧
      vc.fifoDepth = 4 := by decide

theorem witness_IdlePortChangesNothing :
    ∃ s i c, RunsCycle s i ∧ i.port.sel = false ∧ s.blk.events.getLsbD c = true :=
  ⟨_, quiet, 0, runs_quiet { Block.reset with events := 1 } [], rfl, by decide⟩

theorem witness_QueueTakesPushAndPop :
    ∃ s i w, RunsCycle s i ∧ Presents i (.wrTxfifo w) ∧ s.blk.pops s.cfg = true ∧ s.blk.encEn = true :=
  ⟨_, _, 0xFF000002, runs { running with fifo := [1] } 0x610FF000002 [], presents (by decide), by decide, rfl⟩

theorem witness_EventSetWinsOverClear : ∃ s i v, RunsCycle s i ∧ Presents i (.wrEvents v) :=
  ⟨_, _, 7, runs { Block.reset with decEn := true, sprev := 1 } 0x60800000007 [], presents (by decide)⟩

theorem witness_UnitsIgnoreTheHostPort :
    ∃ s t u i p, i.rst = false ∧ runCycle i s = .next t ∧ runCycle { i with port := p } s = .next u :=
  ⟨mk vc running [], _, _, drive 0x60000000002, PortIn.idle, rfl, rfl, rfl⟩

theorem witness_MisalignedAccess :
    let p : PortIn := { sel := true, we := true, size := 1, addr := 0x0E, wdata := 0x1234 }
    p.sel = true ∧ p.addr.toNat % 4 ≠ 0 := by decide

theorem witness_UnmappedAccess :
    let p : PortIn := { sel := true, we := false, size := 2, addr := 0x48, wdata := 0 }
    let q : PortIn := { sel := true, we := true, size := 2, addr := 0xFC, wdata := 0 }
    (p.sel = true ∧ p.addr.toNat % 4 = 0 ∧ p.size.toNat = 2 ∧ 0x48 ≤ p.addr.toNat) ∧
    (q.sel = true ∧ q.addr.toNat % 4 = 0 ∧ q.size.toNat = 2 ∧ 0x48 ≤ q.addr.toNat) := by decide

theorem witness_AccessRights :
    let p : PortIn := { sel := true, we := true, size := 2, addr := 0x40, wdata := 0 }
    let q : PortIn := { sel := true, we := false, size := 2, addr := 0x10, wdata := 0 }
    let r : PortIn := { sel := true, we := false, size := 1, addr := 0x24, wdata := 0 }
    let u : PortIn := { sel := true, we := true, size := 3, addr := 0xFC, wdata := 0 }
    (p.sel = true ∧ p.size.toNat = 2 ∧ p.we = true ∧ p.addr = 0x40#8) ∧
    (q.sel = true ∧ q.size.toNat = 2 ∧ q.we = false ∧ q.addr = 0x10#8) ∧
    (r.sel = true ∧ r.size.toNat ≠ 2 ∧ r.addr = 0x24#8) ∧
    (u.sel = true ∧ u.addr.toNat % 4 = 0 ∧ u.size.toNat ≠ 2) := by decide

/-- With no record, and with one. -/
theorem witness_ErrorRecordKeepsFirst :
    (∃ s i, RunsCycle s i ∧ i.port.sel = true ∧ decode i.port.word = .error .unmapped ∧ s.blk.busErr.cause = none) ∧
    ∃ s i, RunsCycle s i ∧ i.port.sel = true ∧ decode i.port.word = .error .size ∧
      s.blk.busErr.cause = some .misaligned :=
  ⟨⟨_, _, runs Block.reset 0x24800000000 [], rfl, by decide, rfl⟩,
   ⟨_, _, runs { Block.reset with busErr := { cause := some .misaligned, ovf := false, addr := 14, we := true } }
      0x05000000000 [], rfl, by decide, rfl⟩⟩

theorem witness_ErrorsArePrecise :
    ∃ s t u i, i.rst = false ∧ runCycle i s = .next t ∧ t.out.resp = true ∧
      runCycle { i with port := PortIn.idle } s = .next u :=
  ⟨mk vc { Block.reset with clkInt := 0 } [], _, _, drive 0x60000000007, rfl, rfl, rfl, rfl⟩

theorem witness_ParameterReadResults :
    let s := mk vc Block.reset []
    s.cfg.problem = none ∧ s.cfg.t1 < 256 ∧ s.cfg.t2 < 256 ∧ s.cfg.t3 < 256 := by decide

/-- Each of the three ways to be accepted. -/
theorem witness_CtrlWriteAccepted :
    (0x6#32).getLsbD 0 = false ∧ running.encEn = true ∧ Block.reset.clkInt.toNat ≠ 0 ∧ Block.reset.cfgErr = false := by
  decide

/-- Each of the two ways to be refused. -/
theorem witness_CtrlWriteRefusedStart :
    let s := mk vc { Block.reset with clkInt := 0 } []
    let t := mk vc { Block.reset with cfgErr := true } []
    ((1#32).getLsbD 0 = true ∧ s.blk.encEn = false ∧ s.blk.clkInt.toNat = 0) ∧
    ((1#32).getLsbD 0 = true ∧ t.blk.encEn = false ∧ t.blk.cfgErr = true) := by decide

theorem witness_DivisorWriteBeforeStart : (mk vc Block.reset []).blk.encEn = false := by decide

theorem witness_DivisorWriteLocked : (mk vc running []).blk.encEn = true := by decide

theorem witness_QueueWriteAccepted :
    let s := mk vc { running with fifo := [1, 2, 3] } []
    s.blk.encEn = true ∧ s.blk.fifo.length ≠ s.cfg.fifoDepth := by decide

theorem witness_QueueWriteStallsOrFails :
    let s := mk vc { running with fifo := [1, 2, 3, 4] } []
    s.blk.encEn = true ∧ s.blk.fifo.length = s.cfg.fifoDepth ∧ (mk vc Block.reset []).blk.encEn = false := by decide

theorem witness_EventRaisesInterrupt :
    ∃ s t i, RunsCycle s i ∧ step s = .next t ∧ s.blk.wdtEn = true ∧ s.blk.sprev.getLsbD 2 = true ∧
      s.blk.sync2.getLsbD 2 = false ∧ t.blk.irqEn.getLsbD 2 = true ∧ t.blk.irq = true :=
  ⟨mk vc { Block.reset with wdtEn := true, irqEn := 4, sprev := 4 } [quiet], _, quiet, runs_quiet _ [], rfl,
    by decide⟩

/-- A started block meets the invariant. -/
theorem inv_running (l : List Inputs) : Inv (mk vc running l) :=
  have h : Inv (mk vc running []) := by constructor <;> decide
  ⟨h.1, h.2, h.3, h.4, h.5, h.6, h.7, h.8, h.9, h.10, h.11, h.12, h.13, h.14, h.15, h.16, h.17, h.18, h.19⟩

theorem witness_DividerTickTimes :
    ∃ j s t, Inv s ∧ s.blk.encEn = true ∧ s.blk.divAcc = 0 ∧ Undisturbed j s ∧ s.after j = .next t := by
  refine ⟨2, mk vc running [quiet, quiet], _, inv_running _, rfl, rfl, ?_, rfl⟩
  intro k hk
  interval_cases k <;> exact ⟨quiet, rfl, rfl⟩

/-- A full queue of one word, in a configuration whose bound is four cycles. -/
theorem witness_StallIsBounded :
    ∃ s w, Inv s ∧ s.blk.encEn = true ∧ s.blk.fifo.length = s.cfg.fifoDepth ∧
      ∀ k, k ≤ (s.cfg.longestUnit * s.blk.dfix + 255) / 256 + 1 →
        ∃ i, s.stimulusAt k = .cycle i ∧ i.rst = false ∧ Presents i (.wrTxfifo w) := by
  refine ⟨mk tiny { running with fifo := [1] } (List.replicate 5 (drive 0x61000000002)), 2, ?_, rfl, rfl, ?_⟩
  · constructor <;> decide
  · intro k hk
    have hk : k ≤ 4 := hk
    refine ⟨drive 0x61000000002, ?_, rfl, presents (by decide)⟩
    interval_cases k <;> rfl

/-- The first and the last encoder cycle of a word and of a gap. -/
theorem witness_WordWaveform :
    vc.problem = none ∧ (0xFF000001#32) ≠ 0 ∧ 0 < vc.pullBits * vc.bitCycles ∧ 527 < vc.pullBits * vc.bitCycles := by
  decide

theorem witness_GapWaveform :
    vc.problem = none ∧ 0 < vc.resetPeriods * vc.bitCycles ∧ 43 < vc.resetPeriods * vc.bitCycles := by decide

/-- One state for each of the three queues. -/
theorem witness_NextUnitStartsAtOnce :
    ∀ q ∈ ([[], [0], [0xFF000001]] : List (List Word)),
      ∃ s i, RunsCycle s i ∧ s.blk.encTick = true ∧ s.blk.enc.finishCycle s.cfg = none ∧ s.blk.fifo = q :=
  fun q _ => ⟨_, quiet, runs_quiet { running with fifo := q } [], rfl, rfl, rfl⟩

theorem witness_EncoderRestsWithoutTick : ∃ s i, RunsCycle s i ∧ s.blk.encTick = false ∧ s.blk.encEn = true :=
  ⟨_, quiet, runs_quiet { running with clkInt := 2 } [], by decide, rfl⟩

/-- Inside a word, at a bit's boundary, and inside a gap. -/
theorem witness_TickInsideUnit :
    (∃ s i e', RunsCycle s i ∧ s.blk.encTick = true ∧ s.blk.enc.finishCycle s.cfg = some e' ∧ e'.bitidx = 1) ∧
    ∃ s i e', RunsCycle s i ∧ s.blk.encTick = true ∧ s.blk.enc.finishCycle s.cfg = some e' ∧ e'.gcnt = 1 :=
  ⟨⟨_, quiet, _, runs_quiet { running with enc := { Encoder.reset with st := .bit, osr := 1, phase := 21 } } [], by decide,
      rfl, rfl⟩,
   ⟨_, quiet, _, runs_quiet { running with enc := { Encoder.reset with st := .gap, gcnt := 2 } } [], by decide, rfl, rfl⟩⟩

theorem witness_SynchronizerLatency :
    ∃ (s t : State) (i0 i1 i2 : Inputs), s.stimulusAt 0 = .cycle i0 ∧ s.stimulusAt 1 = .cycle i1 ∧ s.stimulusAt 2 = .cycle i2 ∧
      i0.rst = false ∧ i1.rst = false ∧ i2.rst = false ∧ s.after 3 = .next t :=
  ⟨mk vc Block.reset [{ quiet with steer := true }, quiet, quiet], _, { quiet with steer := true }, quiet, quiet,
    rfl, rfl, rfl, rfl, rfl, rfl, rfl⟩

/-- Both captures, and a disabled decoder. -/
theorem witness_CaptureCommits :
    (∃ s i, RunsCycle s i ∧ s.blk.decEn = true ∧ s.blk.sprev.getLsbD 0 = true ∧ s.blk.sync2.getLsbD 0 = false ∧
      s.blk.sprev.getLsbD 1 = true ∧ s.blk.sync2.getLsbD 1 = false) ∧
    ∃ s i, RunsCycle s i ∧ s.blk.decEn = false :=
  ⟨⟨_, quiet, runs_quiet { Block.reset with decEn := true, sprev := 3 } [], rfl, by decide⟩,
   ⟨_, quiet, runs_quiet Block.reset [], rfl⟩⟩

/-- A falling edge of both channels follows two cycles without one. -/
theorem witness_WidthCountsHighTicks :
    ∃ n s t i, s.blk.decEn = true ∧ Undisturbed n s ∧ s.after n = .next t ∧
      Throughout (fun u => u.blk.falls.getLsbD 0 = false) n s ∧
      Throughout (fun u => u.blk.falls.getLsbD 1 = false) n s ∧
      RunsCycle t i ∧ t.blk.falls.getLsbD 0 = true ∧ t.blk.falls.getLsbD 1 = true := by
  refine ⟨2, mk vc { Block.reset with decEn := true, sync1 := 3, sync2 := 3, sprev := 3 } [quiet, quiet, quiet], _, quiet,
    rfl, ?_, rfl, ?_, ?_, ⟨by decide, rfl, rfl⟩, by decide, by decide⟩
  · intro k hk
    interval_cases k <;> exact ⟨quiet, rfl, rfl⟩
  all_goals
    intro k hk u hu
    interval_cases k
    · obtain rfl := Host.Outcome.next.inj (show Host.Outcome.next _ = _ from hu); decide
    · obtain rfl := Host.Outcome.next.inj (show Host.Outcome.next _ = _ from hu); decide

theorem witness_TimeBaseCountsTicks :
    ∃ n s t, s.blk.timePre < s.cfg.timeDiv ∧ s.blk.capPre < s.cfg.capDiv ∧ s.cfg.capDiv = 4 ∧ Undisturbed n s ∧
      s.after n = .next t := by
  refine ⟨2, mk { vc with capDiv := 4 } { Block.reset with capPre := 3 } [quiet, quiet], _, by decide, by decide, rfl, ?_,
    rfl⟩
  intro k hk
  interval_cases k <;> exact ⟨quiet, rfl, rfl⟩

/-- An edge, and the three ways to have none. -/
theorem witness_UpdateEdgeRecorded :
    (∃ s i, RunsCycle s i ∧ s.blk.wdtEn = true ∧ s.blk.sprev.getLsbD 2 = true ∧ s.blk.sync2.getLsbD 2 = false) ∧
    (∃ s i, RunsCycle s i ∧ s.blk.wdtEn = false) ∧ (∃ s i, RunsCycle s i ∧ s.blk.sprev.getLsbD 2 = false) ∧
    ∃ s i, RunsCycle s i ∧ s.blk.sync2.getLsbD 2 = true :=
  ⟨⟨_, quiet, runs_quiet { Block.reset with wdtEn := true, sprev := 4 } [], rfl, by decide⟩,
   ⟨_, quiet, runs_quiet { Block.reset with sprev := 4 } [], rfl⟩,
   ⟨_, quiet, runs_quiet { Block.reset with wdtEn := true } [], by decide⟩,
   ⟨_, quiet, runs_quiet { Block.reset with wdtEn := true, sync2 := 4, sprev := 4 } [], by decide⟩⟩

/-- At the last moment that is not expired and at the first that is. -/
theorem witness_ExpiryBoundary :
    ∀ v ∈ [(100999 : Stamp), 101000],
      ∃ n s t, s.blk.wdtEn = true ∧ s.blk.lastValid = true ∧ s.blk.time = v ∧ Undisturbed n s ∧ s.after n = .next t ∧
        Throughout (fun u => u.blk.falls.getLsbD 2 = false) n s ∧ s.blk.last.toNat ≤ t.blk.time.toNat := by
  intro v hv
  simp only [List.mem_cons, List.not_mem_nil, or_false] at hv
  rcases hv with rfl | rfl
  · refine ⟨1, mk vc { Block.reset with wdtEn := true, lastValid := true, last := 1000, time := 100999 } [quiet], _,
      rfl, rfl, rfl, ?_, rfl, ?_, by decide⟩
    · intro k hk
      interval_cases k
      exact ⟨quiet, rfl, rfl⟩
    · intro k hk u hu
      interval_cases k
      obtain rfl := Host.Outcome.next.inj (show Host.Outcome.next _ = _ from hu)
      decide
  · refine ⟨1, mk vc { Block.reset with wdtEn := true, lastValid := true, last := 1000, time := 101000 } [quiet], _,
      rfl, rfl, rfl, ?_, rfl, ?_, by decide⟩
    · intro k hk
      interval_cases k
      exact ⟨quiet, rfl, rfl⟩
    · intro k hk u hu
      interval_cases k
      obtain rfl := Host.Outcome.next.inj (show Host.Outcome.next _ = _ from hu)
      decide

/-- A read pair of the time base with one cycle in between. -/
theorem witness_SixtyFourBitReadPairs_time :
    ∃ s s1 s2 s3 n i j, RunsCycle s i ∧ step s = .next s1 ∧ Undisturbed n s1 ∧ s1.after n = .next s2 ∧ RunsCycle s2 j ∧
      step s2 = .next s3 ∧ Presents i .rdTimeLo ∧ Presents j .rdTimeHi ∧
      ∀ k x, k < n → s1.stimulusAt k = .cycle x → ¬ Presents x .rdTimeLo := by
  refine ⟨_, _, _, _, 1, _, drive 0x22800000000, runs { Block.reset with time := 0x1FFFFFFFF } 0x22400000000
    [quiet, drive 0x22800000000], rfl, ?_, rfl, ⟨by decide, rfl, rfl⟩, rfl, presents (by decide), presents (by decide), ?_⟩
  · intro k hk
    interval_cases k
    exact ⟨quiet, rfl, rfl⟩
  · intro k x hk hx hp
    interval_cases k
    obtain rfl := Stimulus.cycle.inj (show Stimulus.cycle quiet = _ from hx)
    exact absurd hp.selected (by decide)

/-- The same for the timestamp. -/
theorem witness_SixtyFourBitReadPairs_last :
    ∃ s s1 s2 s3 n i j, RunsCycle s i ∧ step s = .next s1 ∧ Undisturbed n s1 ∧ s1.after n = .next s2 ∧ RunsCycle s2 j ∧
      step s2 = .next s3 ∧ Presents i .rdLastLo ∧ Presents j .rdLastHi ∧
      ∀ k x, k < n → s1.stimulusAt k = .cycle x → ¬ Presents x .rdLastLo := by
  refine ⟨_, _, _, _, 1, _, drive 0x23000000000, runs { Block.reset with last := 0x300000010 } 0x22C00000000
    [quiet, drive 0x23000000000], rfl, ?_, rfl, ⟨by decide, rfl, rfl⟩, rfl, presents (by decide), presents (by decide), ?_⟩
  · intro k hk
    interval_cases k
    exact ⟨quiet, rfl, rfl⟩
  · intro k x hk hx hp
    interval_cases k
    obtain rfl := Stimulus.cycle.inj (show Stimulus.cycle quiet = _ from hx)
    exact absurd hp.selected (by decide)

theorem witness_InvariantAtReset : vc.problem = none := by decide

theorem witness_InvariantKeptByStep : ∃ s t, Inv s ∧ step s = .next t ∧ s.blk.encEn = true :=
  ⟨mk vc running [drive 0x610FF000001], _, inv_running _, rfl, rfl⟩

theorem witness_ConfigurationIsMonotone :
    ∃ n s t, Inv s ∧ Undisturbed n s ∧ s.after n = .next t ∧ s.blk.encEn = true := by
  refine ⟨1, mk vc running [drive 0x60C00020000], _, inv_running _, ?_, rfl, rfl⟩
  intro k hk
  interval_cases k
  exact ⟨_, rfl, rfl⟩

theorem witness_RefusedStartIsFatal :
    ∃ n s t v, Inv s ∧ s.blk.cfgErr = true ∧ Undisturbed n s ∧ s.after n = .next t ∧ BitVec.getLsbD (w := 32) v 0 = true := by
  refine ⟨1, mk vc { Block.reset with cfgErr := true } [drive 0x60000000001], _, 1, ?_, rfl, ?_, rfl, by decide⟩
  · constructor <;> decide
  · intro k hk
    interval_cases k
    exact ⟨_, rfl, rfl⟩

/-- A legal divisor at the least clock rate that has one, and a rate without one. -/
theorem witness_DivisorComputation :
    (mk vc Block.reset []).blk.encEn = false ∧ 0 < 871000 ∧ 0 < 22 ∧
    clkdivFor 19162000 871000 22 = some 0x00010000 ∧ clkdivFor 19161999 871000 22 = none := by decide

/-- The least legal and the greatest illegal divisor word. -/
theorem witness_StartSequence :
    vc.problem = none ∧ 65536 ≤ (0x00010000#32).toNat ∧ (0x0000FFFF#32).toNat < 65536 := by decide

/-- A frame that is written with stalls: a queue of one word. -/
theorem witness_FrameWriteEnqueuesSevenWords :
    ∃ fuel l tm fl fr rr rl s t log, Inv s ∧ s.blk.encEn = true ∧
      runProgram fuel l (expandPseudo tm (.wrFrame fl fr rr rl)) s = some (t, log) := by
  refine ⟨40, Levels.low, { term0 := 0, term1 := 5, term2 := 6 }, 1, 2, 3, 4, mk tiny running [], _, _, ?_, rfl, rfl⟩
  constructor <;> decide

end Sys2Proof.Tests
end

section
/-! PROOFS. The configuration check of the step (00_scope.md R6, R7): what it refuses, and what it lets through. -/

namespace Sys2Proof.Machine

/-- The check of R7 comes before anything else in the cycle, a stopped clock included. -/
theorem step_of_problem {s : State} {p : ConfigProblem} (h : s.cfg.problem = some p) :
    step s = .refused (.configOutOfRange p) := by
  simp [step, advance, h]

/-- One test of the chain in `Config.problem`: it finds no problem exactly when its range holds and the later tests find
none. -/
theorem firstProblem_eq_none_iff {bad : Prop} [Decidable bad] {p : ConfigProblem} {later : Option ConfigProblem} :
    (if bad then some p else later) = none ↔ ¬ bad ∧ later = none := by
  by_cases hb : bad <;> simp [hb]

/-- The legal configurations, with the threshold by its name; `problem_none` is one direction, without the upper bounds of
the two prescalers. -/
theorem problem_eq_none_iff (c : Config) :
    c.problem = none ↔
      1 ≤ c.t1 ∧ 1 ≤ c.t2 ∧ 1 ≤ c.t3 ∧ (1 ≤ c.pullBits ∧ c.pullBits ≤ 32) ∧ (1 ≤ c.fifoDepth ∧ c.fifoDepth ≤ 255) ∧
      (1 ≤ c.resetPeriods ∧ c.resetPeriods ≤ 65535) ∧ (1 ≤ c.capDiv ∧ c.capDiv ≤ 65536) ∧
      (1 ≤ c.timeDiv ∧ c.timeDiv ≤ 65536) ∧ c.wdtThreshold < 2 ^ 32 := by
  simp only [Config.problem, firstProblem_eq_none_iff, not_or, not_lt, not_le, and_true]

/-- Settles O9: the refusal is the first branch of the step, and each test of the check is the negation of one range. -/
theorem badConfigurationRefused : Obligations.BadConfigurationRefused := by
  unfold Obligations.BadConfigurationRefused
  refine ⟨fun _ _ => step_of_problem, fun c => ?_⟩
  have hthr : c.wdtThreshold = 100 * c.sysClkHz / (1000 * c.timeDiv) := rfl
  simp only [problem_eq_none_iff, hthr, and_assoc]

end Sys2Proof.Machine
end

section
/-! PROOFS. The invariant of the block (10_state.md R57, R58, R61 and what `Inv` derives from them): it holds at reset, the host
transaction keeps it, and the cycle's hardware functions keep it over the host transaction. Last, a cycle in which the port is
idle. -/

namespace Sys2Proof.Machine

/-! ## At reset -/

/-- R62 within the ranges of `Inv`: the prescalers and the bit counters are 0, and every limit is positive. -/
theorem inv_of_blk_reset {s : State} (hc : s.cfg.problem = none) (hb : s.blk = Block.reset) : Inv s := by
  obtain ⟨-, -, -, hpull, -, -, -, -, -, hcap, htime, -⟩ := problem_none hc
  have hbit := bitCycles_pos hc
  constructor <;> simp [hb, hc, Block.reset, Encoder.reset, Capture.reset, BusErr.clear, level] <;> omega

/-- Settles O51: both states hold ResetState under a legal configuration. -/
theorem invariantAtReset : Obligations.InvariantAtReset := by
  unfold Obligations.InvariantAtReset
  have hreset : ∀ c : Config, c.problem = none → Inv (State.resetWith c) := fun _ hc => inv_of_blk_reset hc rfl
  exact ⟨hreset, hreset Config.chosen (by decide)⟩

/-! ## The host transaction -/

/-- What an accepted encoder start promises (R151, R153): a legal divisor and no earlier refusal. -/
theorem startRefused_eq_false {v : Word} {b : Block} (h : startRefused v b = false) (hstopped : b.encEn = false)
    (hreq : ctrlEncReq v = true) : 1 ≤ b.clkInt.toNat ∧ b.cfgErr = false := by
  simp only [startRefused, hreq, hstopped, Bool.not_false, Bool.true_and, Bool.or_eq_false_iff, beq_eq_false_iff_ne] at h
  obtain ⟨hint, herr⟩ := h
  exact ⟨Nat.pos_of_ne_zero fun h0 => hint (BitVec.eq_of_toNat_eq h0), herr⟩

/-- R153: the enables are set-once, and a running encoder keeps its divisor. -/
theorem HostEffect.monotone {s t : State} (h : HostEffect s t) :
    (s.blk.encEn = true → t.blk.encEn = true ∧ t.blk.dfix = s.blk.dfix) ∧
    (s.blk.decEn = true → t.blk.decEn = true) ∧ (s.blk.wdtEn = true → t.blk.wdtEn = true) := by
  cases h <;> simp_all [Block.dfix]

/-- An accepted WR CTRL keeps the invariant: a start finds a legal divisor and no `cfg_err`, with `div_acc` still 0. -/
theorem inv_writeCtrl {s : State} (h : Inv s) {v : Word} (hv : startRefused v s.blk = false) :
    Inv (s.writeCompletes (s.blk.writeCtrl v)) := by
  have hstart : (s.blk.encEn || ctrlEncReq v) = true →
      s.blk.cfgErr = false ∧ 1 ≤ s.blk.clkInt.toNat ∧ s.blk.divAcc < s.blk.dfix := by
    intro hen
    cases hs : s.blk.encEn with
    | true => exact ⟨h.exclusive hs, h.divisorLegal hs, h.divAccBound hs⟩
    | false =>
      obtain ⟨hint, herr⟩ := startRefused_eq_false hv hs (by simpa [hs] using hen)
      have := dfix_ge hint
      have := h.divAccStopped hs
      exact ⟨herr, hint, by omega⟩
  have hstopped : (s.blk.encEn || ctrlEncReq v) = false → s.blk.encEn = false := fun hen => (Bool.or_eq_false_iff.1 hen).1
  exact { h with
    exclusive := fun hen => (hstart hen).1
    divisorLegal := fun hen => (hstart hen).2.1
    divAccBound := fun hen => (hstart hen).2.2
    fifoStarted := fun hen => h.fifoStarted (hstopped hen)
    divAccStopped := fun hen => h.divAccStopped (hstopped hen)
    encStopped := fun hen => h.encStopped (hstopped hen)
    decoderOff := fun hen => h.decoderOff (Bool.or_eq_false_iff.1 hen).1
    watchdogOff := fun hen => h.watchdogOff (Bool.or_eq_false_iff.1 hen).1 }

/-- Everything that HostTxn can do keeps the invariant. -/
theorem HostEffect.inv {s t : State} (he : HostEffect s t) (h : Inv s) : Inv t := by
  cases he with
  | idle | read v | timeLo | lastLo | stall => exact { h with }
  | ctrl v hv => exact inv_writeCtrl h hv
  | events v =>
    have hclear : ∀ c, s.blk.events.getLsbD c = false → (s.blk.events &&& ~~~(eventsClear v)).getLsbD c = false :=
      fun c hc => by simp [hc]
    exact { h with
      decoderOff := fun hen =>
        have ⟨hsteer, hthr, h0, h1⟩ := h.decoderOff hen
        ⟨hsteer, hthr, hclear 0 h0, hclear 1 h1⟩
      watchdogOff := fun hen => (h.watchdogOff hen).imp_right (hclear 2) }
  | clkdiv v hoff =>
    have hno {P : Prop} (hen : s.blk.encEn = true) : P := by simp [hoff] at hen
    exact { h with divisorLegal := hno, divAccBound := hno }
  | push w hen hfull =>
    have hbound := h.fifoBound
    exact { h with
      fifoBound := by simp; omega
      fifoStarted := fun hoff => by simp [hen] at hoff }
  | clear => exact { h with errorRecord := fun _ => rfl }
  | error c we a hc =>
    exact { h with
      exclusive := fun hen => by
        have hne : c ≠ .config := fun heq => by simp [hc heq] at hen
        simpa [hne] using h.exclusive hen
      errorRecord := fun hnone => absurd hnone (BusErr.record_cause_ne_none _ _ _ _) }

/-! ## The hardware functions, committed over the host transaction -/

/-- The encoder's share of the invariant. -/
theorem Inv.encInRange {s : State} (h : Inv s) : s.blk.enc.InRange s.cfg :=
  ⟨h.bitidxBound, h.phaseBound, h.gcntBound, h.gcntInGap, h.doutLevel⟩

/-- An encoder that is not started rests (R202, R209). -/
theorem nextEnc_stopped {c : Config} {b : Block} (h : b.encEn = false) : b.nextEnc c = b.enc := by
  simp [Block.nextEnc, encTick_stopped h]

/-- Without a recorded edge `last` is kept (R263). -/
theorem nextLast_of_not_records {b : Block} (h : b.recordsUpdate = false) : b.nextLast = b.last := by
  simp [Block.nextLast, h]

/-- A pop only shortens the queue (R191). -/
theorem commit_fifo_length_le (c : Config) (i : Inputs) (b h : Block) : (b.commit c i h).fifo.length ≤ h.fifo.length := by
  rw [Block.commit_fifo]
  split <;> simp

/-- The event bits after a cycle: what the host left, and what the hardware sets (R91). -/
theorem commit_events_getLsbD (c : Config) (i : Inputs) (b h : Block) (k : Nat) :
    (b.commit c i h).events.getLsbD k = (h.events.getLsbD k || b.eventsSet.getLsbD k) := by
  rw [Block.commit_events, BitVec.getLsbD_or]

/-- `div_acc < Dfix` after the cycle (R181). A divider that the host starts in this very cycle has not moved yet. -/
theorem commit_divAcc_lt {s s1 : State} (h : Inv s) (h1 : Inv s1) (he : HostEffect s s1)
    (hen : s1.blk.encEn = true) : s.blk.nextDivAcc < s1.blk.dfix := by
  obtain ⟨-, -, -, -, -, hacc, -⟩ := he.frame
  obtain ⟨hmono, -, -⟩ := he.monotone
  cases hs : s.blk.encEn with
  | true =>
    rw [(hmono hs).2]
    exact nextDivAcc_lt hs (dfix_ge (h.divisorLegal hs)) (h.divAccBound hs)
  | false =>
    rw [nextDivAcc_stopped hs, ← hacc]
    exact h1.divAccBound hen

/-- A disabled decoder stays at reset and sets no capture event (R237). -/
theorem commit_decoderOff {s : State} {b : Block} (h : Inv s) (i : Inputs) (hoff : s.blk.decEn = false)
    (h0 : b.events.getLsbD 0 = false) (h1 : b.events.getLsbD 1 = false) :
    let t := s.blk.commit s.cfg i b
    t.steer = Capture.reset ∧ t.thr = Capture.reset ∧ t.events.getLsbD 0 = false ∧ t.events.getLsbD 1 = false := by
  obtain ⟨hsteer, hthr, -, -⟩ := h.decoderOff hoff
  obtain ⟨hset0, hset1, -⟩ := eventsSet_getLsbD s.blk
  simp only [Block.commit_steer, Block.commit_thr, commit_events_getLsbD, captures_off hoff, counts_off hoff, hset0, hset1,
    h0, h1, hsteer, hthr, Capture.next_quiet, Bool.or_false, and_self]

/-- A disabled watchdog records nothing (R276). -/
theorem commit_watchdogOff {s : State} {b : Block} (h : Inv s) (i : Inputs) (hoff : s.blk.wdtEn = false)
    (h2 : b.events.getLsbD 2 = false) :
    let t := s.blk.commit s.cfg i b
    t.lastValid = false ∧ t.events.getLsbD 2 = false := by
  obtain ⟨-, -, hset⟩ := eventsSet_getLsbD s.blk
  simp only [Block.commit_lastValid, commit_events_getLsbD, (h.watchdogOff hoff).1, recordsUpdate_off hoff, hset, h2,
    Bool.or_false, and_self]

/-- A cycle without reset keeps the invariant. What only the host writes is as HostTxn left it; what the hardware writes
follows from the state at the start of the cycle, where a unit that is off after the cycle was off as well. -/
theorem inv_commit {s s1 : State} (h : Inv s) (he : HostEffect s s1) (i : Inputs) : Inv (s.commit i s1) := by
  have host : Inv s1 := he.inv h
  have hcfg : s1.cfg = s.cfg := he.frame.1
  obtain ⟨henc, hdec, hwdt⟩ := he.monotone
  have encOff (hen : s1.blk.encEn = false) : s.blk.encEn = false :=
    Bool.eq_false_of_not_eq_true fun hs => by simp [(henc hs).1] at hen
  have decOff (hen : s1.blk.decEn = false) : s.blk.decEn = false :=
    Bool.eq_false_of_not_eq_true fun hs => by simp [hdec hs] at hen
  have wdtOff (hen : s1.blk.wdtEn = false) : s.blk.wdtEn = false :=
    Bool.eq_false_of_not_eq_true fun hs => by simp [hwdt hs] at hen
  obtain ⟨-, -, -, -, -, -, -, -, -, hcap, htime, -⟩ := problem_none h.cfgOk
  have hrange : (s.blk.nextEnc s.cfg).InRange s1.cfg := by rw [hcfg]; exact nextEnc_inRange h.cfgOk h.encInRange
  exact { host with
    fifoBound := (commit_fifo_length_le s.cfg i s.blk s1.blk).trans host.fifoBound
    fifoStarted := fun hen => by simp [host.fifoStarted hen]
    divAccBound := commit_divAcc_lt (s1 := s1) h host he
    divAccStopped := fun hen => (nextDivAcc_stopped (encOff hen)).trans (h.divAccStopped (encOff hen))
    bitidxBound := hrange.bitidx
    phaseBound := hrange.phase
    gcntBound := hrange.gcnt
    gcntInGap := hrange.inGap
    encStopped := fun hen => by simpa [nextEnc_stopped (encOff hen)] using h.encStopped (encOff hen)
    doutLevel := hrange.dout
    capPreBound := hcfg ▸ nextCapPre_lt hcap h.capPreBound
    timePreBound := hcfg ▸ nextTimePre_lt htime h.timePreBound
    decoderOff := fun hen =>
      have ⟨_, _, h0, h1⟩ := host.decoderOff hen
      commit_decoderOff h i (decOff hen) h0 h1
    watchdogOff := fun hen => commit_watchdogOff h i (wdtOff hen) (host.watchdogOff hen).2
    lastInvalid := fun hno =>
      have ⟨hvalid, hrec⟩ := Bool.or_eq_false_iff.1 hno
      (nextLast_of_not_records hrec).trans (h.lastInvalid hvalid) }

/-- Settles O52: a step is a reset cycle, or a host effect with the hardware committed over it. -/
theorem invariantKeptByStep : Obligations.InvariantKeptByStep := by
  unfold Obligations.InvariantKeptByStep
  intro s t h hs
  obtain ⟨hc, i, -, ⟨-, rfl⟩ | ⟨-, s1, -, he, rfl⟩⟩ := step_cases hs
  · exact inv_of_blk_reset hc rfl
  · exact inv_commit h he i

/-! ## A cycle without a transaction -/

/-- HostTxn for `sel = 0` (R33, R92). -/
theorem hostTxn_of_not_sel {p : PortIn} (h : p.sel = false) (s : State) : hostTxn p s = .next s.portIdle := by
  simp [hostTxn, h]

/-- Settles O12: HostTxn leaves the block as it is, so the commit shows the hardware's own writes only. -/
theorem idlePortChangesNothing : Obligations.IdlePortChangesNothing := by
  unfold Obligations.IdlePortChangesNothing
  intro s i hi hsel
  have hstep : step s = .next (s.commit i s.portIdle) := by
    rw [step_of_runs hi, runCycle_of_host hi.noReset (hostTxn_of_not_sel hsel s)]
  have hevents : ∀ c, s.blk.events.getLsbD c = true → (s.blk.commit s.cfg i s.blk).events.getLsbD c = true :=
    fun c hc => by rw [commit_events_getLsbD, hc, Bool.true_or]
  exact ⟨_, hstep, rfl, rfl, rfl, rfl, rfl, rfl, rfl, rfl, rfl, rfl, rfl, rfl, hevents⟩

end Sys2Proof.Machine
end

section
/-! PROOFS. One cycle that presents a legal transaction (20_memory.md R90, R91, R92): the meaning of the transaction with the
hardware committed over it, and the two elements that both sides write, the transmit queue and the event bits. -/

namespace Sys2Proof.Machine

/-! ## The step -/

/-- The step that a legal transaction takes: its meaning, with the hardware committed over it (R90). -/
theorem step_of_presents {s s1 : State} {i : Inputs} {ins : Instr} (hi : RunsCycle s i) (hp : Presents i ins)
    (h : exec ins s = .next s1) : step s = .next (s.commit i s1) := by
  have hhost : hostTxn i.port s = .next s1 := (hostTxn_of_presents hp s).trans h
  rw [step_of_runs hi, runCycle_of_host hi.noReset hhost]

/-- Settles O7: the cycle has no reset, and HostTxn is the meaning of the presented transaction. -/
theorem stepRunsDecodedTransaction : Obligations.StepRunsDecodedTransaction := by
  unfold Obligations.StepRunsDecodedTransaction
  exact fun _ _ _ _ => step_of_presents

/-! ## The queue (R91, R190, R191) -/

/-- The words that a transaction appends to the queue: R91's `push ? [wdata] : []`, with R190's conditions on the state at the
start of the cycle. `exec_fifo` ties it to the meanings. -/
def State.pushed (s : State) : Instr → List Word
  | .wrTxfifo w => if s.blk.encEn = true ∧ s.blk.fifo.length ≠ s.cfg.fifoDepth then [w] else []
  | _ => []

/-- Every meaning leaves the queue with the transaction's words appended. Apart from WR TXFIFO only the writes that can be
refused have two ways to end, and neither way touches the queue. -/
theorem exec_fifo (ins : Instr) (s : State) :
    ∃ s1, exec ins s = .next s1 ∧ s1.blk.fifo = s.blk.fifo ++ s.pushed ins := by
  cases ins with
  | wrTxfifo w =>
    by_cases hen : s.blk.encEn = true
    · by_cases hfull : s.blk.fifo.length = s.cfg.fifoDepth
      · exact ⟨s.stalls, by simp [exec, execWrTxfifo, Block.txFull, hen, hfull], by simp [State.pushed, hfull]⟩
      · exact ⟨s.writeCompletes { s.blk with fifo := s.blk.fifo ++ [w] },
          by simp [exec, execWrTxfifo, Block.txFull, hen, hfull], by simp [State.pushed, hen, hfull]⟩
    · exact ⟨s.busError .notStarted true Reg.txfifo.offset, by simp [exec, execWrTxfifo, hen], by simp [State.pushed, hen]⟩
  | wrCtrl v =>
    simp only [exec, execWrCtrl]
    split <;> exact ⟨_, rfl, (List.append_nil _).symm⟩
  | wrClkdiv v =>
    simp only [exec, execWrClkdiv]
    split <;> exact ⟨_, rfl, (List.append_nil _).symm⟩
  | _ => exact ⟨_, rfl, (List.append_nil _).symm⟩

/-- The pop and the push of one cycle commute: the encoder pops only a word that was there at the start of the cycle (R191). -/
theorem commit_fifo_of_append {c : Config} {b h : Block} {ws : List Word} (i : Inputs) (hw : h.fifo = b.fifo ++ ws) :
    (b.commit c i h).fifo = (if b.pops c then b.fifo.tail else b.fifo) ++ ws := by
  rw [Block.commit_fifo, hw]
  split
  next hpop =>
    obtain ⟨-, -, hne⟩ := pops_fifo hpop
    exact List.tail_append_of_ne_nil hne
  next => rfl

/-- Settles O13: HostTxn appends the accepted word, and the commit takes the head of the old queue. -/
theorem queueTakesPushAndPop : Obligations.QueueTakesPushAndPop := by
  unfold Obligations.QueueTakesPushAndPop
  intro s i ins hi hp
  obtain ⟨s1, hexec, hfifo⟩ := exec_fifo ins s
  refine ⟨_, step_of_presents hi hp hexec, (commit_fifo_of_append i hfifo).trans ?_⟩
  cases ins <;> rfl

/-! ## The event bits (R91, R155) -/

/-- The clear mask of WR EVENTS has WDATA's bit for each channel (R155). -/
theorem eventsClear_getLsbD (v : Word) {c : Nat} (h : c < 3) : (eventsClear v).getLsbD c = v.getLsbD c := by
  simp [eventsClear, h]

/-- An event bit after a cycle whose host transaction cleared `v`'s events: the hardware's set is outside the mask. -/
theorem commit_events_of_clear {c : Config} {b h : Block} {v : Word} (i : Inputs)
    (hh : h.events = b.events &&& ~~~(eventsClear v)) {k : Nat} (hk : k < 3) :
    (b.commit c i h).events.getLsbD k = ((b.events.getLsbD k && !v.getLsbD k) || b.eventsSet.getLsbD k) := by
  simp only [commit_events_getLsbD, hh, BitVec.getLsbD_and, BitVec.getLsbD_not, eventsClear_getLsbD v hk, hk, decide_true,
    Bool.true_and]

/-- A channel captures at its falling edge while the decoder is enabled (R234, R236). -/
theorem captures_eq (b : Block) {c : Nat} (h : c < 3) :
    b.captures c = (b.decEn && b.sprev.getLsbD c && !b.sync2.getLsbD c) := by
  rw [Block.captures, falls_getLsbD b h, Bool.and_assoc]

/-- An update is recorded at the falling edge of channel 2 while the watchdog is enabled (R234, R263). -/
theorem recordsUpdate_eq (b : Block) :
    b.recordsUpdate = (b.wdtEn && b.sprev.getLsbD 2 && !b.sync2.getLsbD 2) := by
  rw [Block.recordsUpdate, falls_getLsbD b (by decide), Bool.and_assoc]

/-- Settles O14: the commit adds the hardware's set after the host's clear. -/
theorem eventSetWinsOverClear : Obligations.EventSetWinsOverClear := by
  unfold Obligations.EventSetWinsOverClear
  intro s i v hi hp
  obtain ⟨hset0, hset1, hset2⟩ := eventsSet_getLsbD s.blk
  refine ⟨_, step_of_presents hi hp rfl, ?_, ?_, ?_⟩
  · rw [← captures_eq _ (by decide), ← hset0]
    exact commit_events_of_clear i rfl (by decide)
  · rw [← captures_eq _ (by decide), ← hset1]
    exact commit_events_of_clear i rfl (by decide)
  · rw [← recordsUpdate_eq, ← hset2]
    exact commit_events_of_clear i rfl (by decide)

end Sys2Proof.Machine
end

section
/-! PROOFS. The error encodings on the port (20_memory.md R93, R94, R98, R99): which condition the decoder names, and that
HostTxn then changes BUSERR only. -/

namespace Sys2Proof

/-! ## The register map (R35) -/

theorem Reg.ofOffset_offset (r : Reg) : Reg.ofOffset r.offset = some r := by cases r <;> rfl

theorem Reg.offset_lt (r : Reg) : r.offset.toNat < 0x48 := by cases r <;> decide

theorem Reg.offset_aligned (r : Reg) : r.offset.toNat % 4 = 0 := by cases r <;> decide

/-- The map ends below 0x48 (R35, R93). -/
theorem Reg.ofOffset_eq_none {a : Offset} (h : 0x48 ≤ a.toNat) : Reg.ofOffset a = none := by
  refine List.find?_eq_none.2 fun r _ heq => ?_
  have hlt := r.offset_lt
  rw [beq_iff_eq.1 heq] at hlt
  omega

/-- The registers that the model gives no write transaction (R94). -/
def Reg.readOnly : List Reg := Reg.all.filter (fun r => (r.write 0).isNone)

/-- The read-only offsets as R35 lists them. -/
theorem Reg.readOnly_offsets :
    Reg.readOnly.map Reg.offset =
      [0x04#8, 0x14#8, 0x18#8, 0x1C#8, 0x20#8, 0x24#8, 0x28#8, 0x2C#8, 0x30#8, 0x34#8, 0x38#8, 0x3C#8, 0x40#8] := rfl

/-- Whether a register can be written does not depend on the word. -/
theorem Reg.write_isNone_eq (r : Reg) (v w : Word) : (r.write v).isNone = (r.write w).isNone := by cases r <;> rfl

theorem Reg.write_of_mem_readOnly {r : Reg} (h : r ∈ Reg.readOnly) (v : Word) : r.write v = none := by
  have h0 : (r.write 0).isNone = true := (List.mem_filter.1 h).2
  rwa [Reg.write_isNone_eq r 0 v, Option.isNone_iff_eq_none] at h0

/-! ## The checks of the decoder, in the order of R92 -/

/-- `addr[1:0]` is the offset modulo 4. -/
theorem Offset.lowBits_eq_zero_iff (a : Offset) : a.extractLsb' 0 2 = 0 ↔ a.toNat % 4 = 0 := by
  rw [← BitVec.toNat_inj, BitVec.extractLsb'_toNat]
  rfl

theorem decode_of_misaligned {t : Txn} (h : t.addr.toNat % 4 ≠ 0) : decode t = .error .misaligned := by
  have hlow : t.addr.extractLsb' 0 2 ≠ 0 := mt (Offset.lowBits_eq_zero_iff _).1 h
  rw [decode, if_pos hlow]

theorem decode_of_wrong_size {t : Txn} (h : t.addr.toNat % 4 = 0) (hs : t.size.toNat ≠ 2) : decode t = .error .size := by
  have hlow : t.addr.extractLsb' 0 2 = 0 := (Offset.lowBits_eq_zero_iff _).2 h
  have hsize : t.size ≠ 2 := fun heq => hs (congrArg BitVec.toNat heq)
  rw [decode, if_neg (not_not.2 hlow), if_pos hsize]

theorem decode_of_unmapped {t : Txn} (h : t.addr.toNat % 4 = 0) (hs : t.size.toNat = 2) (ha : 0x48 ≤ t.addr.toNat) :
    decode t = .error .unmapped := by
  have hlow : t.addr.extractLsb' 0 2 = 0 := (Offset.lowBits_eq_zero_iff _).2 h
  have hsize : t.size = 2 := BitVec.eq_of_toNat_eq hs
  rw [decode, if_neg (not_not.2 hlow), if_neg (not_not.2 hsize), Reg.ofOffset_eq_none ha]

/-- A register without a transaction in the presented direction (R94). -/
theorem decode_of_forbidden {t : Txn} {r : Reg} (ha : t.addr = r.offset) (hs : t.size.toNat = 2)
    (hr : (if t.we then r.write t.wdata else r.read) = none) : decode t = .error .access := by
  have hlow : r.offset.extractLsb' 0 2 = 0 := (Offset.lowBits_eq_zero_iff _).2 r.offset_aligned
  have hsize : t.size = 2 := BitVec.eq_of_toNat_eq hs
  simp only [decode, hlow, hsize, ha, Reg.ofOffset_offset, hr, ne_eq, not_true_eq_false, if_false]

end Sys2Proof

namespace Sys2Proof.Machine

/-! ## The bus error of an error encoding -/

/-- A cause other than ERR_CONFIG changes BUSERR and the response only (R311). -/
theorem State.busError_of_ne_config {c : BusCause} (h : c ≠ .config) (we : Bool) (a : Offset) (s : State) :
    s.busError c we a =
      { s with
        blk := { s.blk with busErr := s.blk.busErr.record c we a }
        out := { ready := true, resp := true, rdata := 0 } } := by
  simp only [State.busError, beq_false_of_ne h, Bool.or_false]

/-- An error encoding on the port changes BUSERR and the response only (R125, R311). -/
theorem hostTxn_of_decode_error {p : PortIn} {c : BusCause} (hsel : p.sel = true) (h : decode p.word = .error c)
    (s : State) :
    hostTxn p s = .next
      { s with
        blk := { s.blk with busErr := s.blk.busErr.record c p.we p.addr }
        out := { ready := true, resp := true, rdata := 0 } } := by
  have hc : c ≠ .config := fun heq => decode_ne_config _ (heq ▸ h)
  rw [← State.busError_of_ne_config hc]
  simp only [hostTxn, hsel, h, if_true]

/-- Settles O16: the alignment check is the decoder's first. -/
theorem misalignedAccess : Obligations.MisalignedAccess := by
  unfold Obligations.MisalignedAccess
  intro p s hsel ha
  exact hostTxn_of_decode_error hsel (decode_of_misaligned (by rwa [PortIn.word_addr])) s

/-- Settles O17: the alignment and the size pass, and the map ends below 0x48. -/
theorem unmappedAccess : Obligations.UnmappedAccess := by
  unfold Obligations.UnmappedAccess
  intro p s hsel ha hs hmap
  refine hostTxn_of_decode_error hsel (decode_of_unmapped ?_ ?_ ?_) s
  · rwa [PortIn.word_addr]
  · rwa [PortIn.word_size]
  · rwa [PortIn.word_addr]

/-- Settles O18: the read-only registers have no write, TXFIFO has no read, and the size check precedes the map, so that a
wrong-size access never reaches the latching read of TIME_LO or LAST_LO. -/
theorem accessRights : Obligations.AccessRights := by
  unfold Obligations.AccessRights
  intro p s hsel
  have access {r : Reg} (hs : p.size.toNat = 2) (ha : p.addr = r.offset)
      (hr : (if p.we then r.write p.wdata else r.read) = none) : decode p.word = .error .access :=
    decode_of_forbidden (r := r) (by rwa [PortIn.word_addr]) (by rwa [PortIn.word_size])
      (by rwa [PortIn.word_we, PortIn.word_wdata])
  have wrongSize (ha : p.addr.toNat % 4 = 0) (hs : p.size.toNat ≠ 2) : decode p.word = .error .size :=
    decode_of_wrong_size (by rwa [PortIn.word_addr]) (by rwa [PortIn.word_size])
  refine ⟨fun hs hwe ha => ?_, fun hs hwe ha => ?_, fun ha hs => hostTxn_of_decode_error hsel (wrongSize ha hs) s,
    fun hs ha => ?_⟩
  · rw [← Reg.readOnly_offsets] at ha
    obtain ⟨r, hmem, hr⟩ := List.mem_map.1 ha
    have hnone : r.write p.wdata = none := Reg.write_of_mem_readOnly hmem _
    simpa only [hwe] using hostTxn_of_decode_error hsel (access hs hr.symm (by rwa [if_pos hwe])) s
  · have hnone : (if p.we then Reg.txfifo.write p.wdata else Reg.txfifo.read) = none := by rw [hwe]; rfl
    simpa only [hwe] using hostTxn_of_decode_error hsel (access (r := .txfifo) hs ha hnone) s
  · have haligned : p.addr.toNat % 4 = 0 := by rcases ha with ha | ha <;> rw [ha] <;> rfl
    exact ⟨_, hostTxn_of_decode_error hsel (wrongSize haligned hs) s, rfl, rfl⟩

end Sys2Proof.Machine
end

section
/-! PROOFS. The encoding (30_encoding.md): the decoder accepts exactly the words that have a row, decoder and encoder agree
row by row, and the errors are named in the order of R125. Last, the numbering of the cycles (R128, R342). -/

namespace Sys2Proof

/-! ## The rows (R121, R124, R125) -/

/-- The transaction that `t` asks of the register `r`, by its direction and its WDATA; the decoder's last lookup. -/
def Txn.row (t : Txn) (r : Reg) : Option Instr := if t.we then r.write t.wdata else r.read

/-- KEY is WE, SIZE and ADDR, which are adjacent fields of T (R121). -/
theorem Txn.key_eq_append (t : Txn) : t.key = BitVec.ofBool t.we ++ t.size ++ t.addr := by
  have hwe : BitVec.ofBool t.we = t.extractLsb' 42 1 := by
    apply BitVec.eq_of_getLsbD_eq
    simp [Txn.we]
  rw [hwe, Txn.size, Txn.addr, 
    BitVec.extractLsb'_append_extractLsb'_eq_extractLsb' (show 42 = 40 + 2 from rfl),
    BitVec.extractLsb'_append_extractLsb'_eq_extractLsb' (show 40 = 32 + 8 from rfl), Txn.key]

/-- R124's KEY column, row by row: the row's direction, SIZE = 2 and the register's offset. -/
theorem Reg.key_of_read {r : Reg} {i : Instr} (h : r.read = some i) : i.key = BitVec.ofBool false ++ 2#2 ++ r.offset := by
  cases r <;> cases h <;> rfl

theorem Reg.key_of_write {r : Reg} {v : Word} {i : Instr} (h : r.write v = some i) :
    i.key = BitVec.ofBool true ++ 2#2 ++ r.offset := by
  cases r <;> cases h <;> rfl

/-- A write takes its whole WDATA word (R122, R126). -/
theorem Reg.wdata_of_write {r : Reg} {v : Word} {i : Instr} (h : r.write v = some i) : i.wdata = v := by
  cases r <;> cases h <;> rfl

/-- R35's offsets are the multiples of 4 below 0x48. -/
theorem Reg.exists_offset {a : Offset} (ha : a.toNat % 4 = 0) (hmap : a.toNat < 0x48) : ∃ r : Reg, a = r.offset := by
  have hall : ∀ k : Fin 18, (Reg.all.get k).offset.toNat = 4 * k := by decide
  obtain ⟨k, hk⟩ : ∃ k : Fin 18, 4 * (k : Nat) = a.toNat :=
    ⟨⟨a.toNat / 4, by omega⟩, Nat.mul_div_cancel' (Nat.dvd_of_mod_eq_zero ha)⟩
  exact ⟨Reg.all.get k, BitVec.eq_of_toNat_eq ((hall k).trans hk).symm⟩

/-- The read-only offsets by R125's numbers. -/
theorem Reg.write_eq_none_iff (r : Reg) (v : Word) :
    r.write v = none ↔ r.offset.toNat = 0x04 ∨ (0x14 ≤ r.offset.toNat ∧ r.offset.toNat ≤ 0x40) := by
  rw [← Option.isNone_iff_eq_none, r.write_isNone_eq v 0]
  cases r <;> decide

/-- TXFIFO is the one write-only register (R94). -/
theorem Reg.read_eq_none_iff (r : Reg) : r.read = none ↔ r.offset.toNat = 0x10 := by
  cases r <;> decide

/-- R125's last condition is the absence of a row. -/
theorem Txn.permitted_iff_row {t : Txn} {r : Reg} (ha : t.addr = r.offset) : t.permitted = true ↔ t.row r ≠ none := by
  cases hwe : t.we with
  | true =>
    simp [Txn.permitted, Txn.row, hwe, ha, Reg.write_eq_none_iff, ← BitVec.toNat_inj]
    omega
  | false =>
    simp [Txn.permitted, Txn.row, hwe, ha, Reg.read_eq_none_iff, ← BitVec.toNat_inj]

/-! ## Decoding by rows -/

theorem decode_of_row {t : Txn} {r : Reg} {i : Instr} (ha : t.addr = r.offset) (hs : t.size.toNat = 2)
    (hr : t.row r = some i) : decode t = .ok i := by
  have hlow : r.offset.extractLsb' 0 2 = 0 := (Offset.lowBits_eq_zero_iff _).2 r.offset_aligned
  have hsize : t.size = 2 := BitVec.eq_of_toNat_eq hs
  rw [Txn.row] at hr
  simp only [decode, hlow, hsize, ha, Reg.ofOffset_offset, hr, ne_eq, not_true_eq_false, if_false]

/-- A word that passes the common checks of R92 addresses a register; whether it decodes is then a matter of the row. -/
theorem row_of_decode {t : Txn} {i : Instr} (h : decode t = .ok i) :
    ∃ r : Reg, t.addr = r.offset ∧ t.size.toNat = 2 ∧ t.row r = some i := by
  have contra {c : BusCause} (he : decode t = .error c) : False := by simp [h] at he
  have haligned : t.addr.toNat % 4 = 0 := by_contra fun hn => contra (decode_of_misaligned hn)
  have hsize : t.size.toNat = 2 := by_contra fun hn => contra (decode_of_wrong_size haligned hn)
  have hmap : t.addr.toNat < 0x48 := by_contra fun hn => contra (decode_of_unmapped haligned hsize (not_lt.1 hn))
  obtain ⟨r, hr⟩ := Reg.exists_offset haligned hmap
  refine ⟨r, hr, hsize, ?_⟩
  cases hrow : t.row r with
  | none => exact (contra (decode_of_forbidden hr hsize hrow)).elim
  | some j => rw [← Decoded.ok.inj (h.symm.trans (decode_of_row hr hsize hrow))]

/-- A word decodes to a transaction with the word's own KEY (R124). -/
theorem key_of_decode {t : Txn} {i : Instr} (h : decode t = .ok i) : i.key = t.key := by
  obtain ⟨r, ha, hs, hr⟩ := row_of_decode h
  have hsize : t.size = 2 := BitVec.eq_of_toNat_eq hs
  rw [t.key_eq_append, ha, hsize]
  cases hwe : t.we with
  | true => exact Reg.key_of_write (by rwa [Txn.row, if_pos hwe] at hr)
  | false => exact Reg.key_of_read (by simpa [Txn.row, hwe] using hr)

/-- A write keeps every operand bit of the word (R122). -/
theorem wdata_of_decode {t : Txn} {i : Instr} (h : decode t = .ok i) (hwe : t.we = true) : i.wdata = t.wdata := by
  obtain ⟨r, -, -, hr⟩ := row_of_decode h
  exact Reg.wdata_of_write (by rwa [Txn.row, if_pos hwe] at hr)

/-- Settles O2: a word is determined by its KEY and its WDATA. -/
theorem encodeOfDecode : Obligations.EncodeOfDecode := by
  unfold Obligations.EncodeOfDecode
  intro t i h
  have hkey : (encode i).key = t.key := (encode_key i).trans (key_of_decode h)
  exact ⟨hkey, fun hwe => Txn.ext_key_wdata hkey ((encode_wdata i).trans (wdata_of_decode h hwe))⟩

/-! ## The table of R124 -/

theorem decodeKey_of_mem_keyRows (w : Word) : ∀ r ∈ keyRows, decodeKey r.1 w = .ok (r.2 w) := by
  simp only [keyRows, List.forall_mem_cons, List.not_mem_nil, false_imp_iff, implies_true, and_true]
  and_intros <;> rfl

/-- Every transaction is its row's, for its own WDATA. -/
theorem Instr.exists_keyRow (i : Instr) : ∃ r ∈ keyRows, r.1 = i.key ∧ r.2 i.wdata = i := by
  have hfind : ∃ r, keyRows.find? (fun r => r.1 == i.key) = some r ∧ r.2 i.wdata = i := by
    cases i <;> exact ⟨_, rfl, rfl⟩
  obtain ⟨r, hr, hi⟩ := hfind
  exact ⟨r, List.mem_of_find?_eq_some hr, by simpa using List.find?_some hr, hi⟩

/-- Settles O1: the decoder reads KEY and WDATA only, the encoding carries both, and they select the transaction's own row. -/
theorem decodeOfEncode : Obligations.DecodeOfEncode := by
  unfold Obligations.DecodeOfEncode
  intro i
  obtain ⟨r, hr, hkey, hi⟩ := i.exists_keyRow
  rw [decode_eq_decodeKey, encode_key, encode_wdata, ← hkey, decodeKey_of_mem_keyRows _ r hr, hi]

/-- Settles O3: the decoder's answer for a row's KEY is the row's; and a word that decodes has the KEY of a row. -/
theorem keySelectsRow : Obligations.KeySelectsRow := by
  unfold Obligations.KeySelectsRow
  refine fun t => ⟨fun r hr hkey => ?_, fun hno => ?_⟩
  · rw [decode_eq_decodeKey, hkey, decodeKey_of_mem_keyRows _ r hr]
  · cases h : decode t with
    | error c => exact ⟨c, rfl⟩
    | ok i =>
      obtain ⟨r, hr, hkey, -⟩ := i.exists_keyRow
      exact absurd (hkey.trans (key_of_decode h)).symm (hno r hr)

/-! ## Legal words and errors (R125) -/

/-- Settles O4: the first three conditions are the common checks in their order; the last two are those of a register without a
row. -/
theorem errorEncodingClassified : Obligations.ErrorEncodingClassified := by
  unfold Obligations.ErrorEncodingClassified
  refine fun t => ⟨decode_of_misaligned, decode_of_wrong_size, decode_of_unmapped, fun ha hs hwe hro => ?_,
    fun ha hs hwe htx => ?_⟩
  · obtain ⟨r, hr⟩ := Reg.exists_offset ha (by omega)
    refine decode_of_forbidden hr hs ?_
    rw [if_pos hwe, Reg.write_eq_none_iff, ← hr]
    exact hro
  · obtain ⟨r, hr⟩ := Reg.exists_offset ha (by omega)
    refine decode_of_forbidden hr hs ?_
    simpa [hwe, Reg.read_eq_none_iff, ← hr] using htx

/-- R125's conditions as propositions on the numbers. -/
theorem Txn.wellFormed_iff (t : Txn) :
    t.wellFormed = true ↔
      t.addr.toNat % 4 = 0 ∧ t.size.toNat = 2 ∧ t.addr.toNat < 0x48 ∧ t.permitted = true := by
  simp [Txn.wellFormed, Txn.aligned, Txn.wordSized, Txn.mapped, ← BitVec.toNat_inj, and_assoc]

/-- Settles O5: an aligned, mapped offset is a register's, and R125's last condition is the absence of a row. -/
theorem legalWordsDecode : Obligations.LegalWordsDecode := by
  unfold Obligations.LegalWordsDecode
  intro t
  rw [Txn.wellFormed_iff]
  constructor
  · rintro ⟨haligned, hsize, hmap, hperm⟩
    obtain ⟨r, hr⟩ := Reg.exists_offset haligned hmap
    obtain ⟨i, hi⟩ := Option.ne_none_iff_exists'.1 ((Txn.permitted_iff_row hr).1 hperm)
    exact ⟨i, decode_of_row hr hsize hi⟩
  · rintro ⟨i, h⟩
    obtain ⟨r, ha, hs, hr⟩ := row_of_decode h
    refine ⟨ha ▸ r.offset_aligned, hs, ha ▸ r.offset_lt, (Txn.permitted_iff_row ha).2 ?_⟩
    simp [hr]

/-- Settles O6, by evaluating the decoder on the nine words. -/
theorem specWordsDecode : Obligations.SpecWordsDecode := by
  unfold Obligations.SpecWordsDecode
  decide

end Sys2Proof

namespace Sys2Proof.Machine

/-! ## The numbering of the cycles (R128, R342) -/

/-- Each cycle without reset counts one. -/
theorem cycle_of_after {n : Nat} {s t : State} (hu : Undisturbed n s) (h : s.after n = .next t) :
    t.cycle = s.cycle + n := by
  induction n generalizing s with
  | zero => cases h; rfl
  | succ n ih =>
    obtain ⟨v, hs, ht⟩ := after_succ h
    obtain ⟨i, hi⟩ := hu.runs hs
    have hv : v.cycle = s.cycle + 1 := by simpa [hi.noReset] using step_cycle hi.stimulus hs
    rw [ih (hu.tail hs) ht, hv]
    omega

/-- Settles O59: the reset cycle sets the number to 0, and each cycle after it counts one. -/
theorem cyclesAreNumberedFromReset : Obligations.CyclesAreNumberedFromReset := by
  unfold Obligations.CyclesAreNumberedFromReset
  intro n s u t i hi hr hs hu ht
  have h0 : u.cycle = 0 := by simpa [hr] using step_cycle hi hs
  refine ⟨h0, ?_⟩
  rw [cycle_of_after hu ht, h0, Nat.zero_add]

end Sys2Proof.Machine
end

section
/-! PROOFS. The control, status, event, parameter and error registers (40_register_access.md): the configuration along a run
(R153), what each read returns, field by field, and what each write changes. -/

namespace Sys2Proof.Machine

/-! ## The configuration along a run (R153) -/

/-- How the configuration bits may change without reset, from `a` to `b` (R153). It is a relation between two blocks, so that it
can be followed along a run; `HostEffect.configurationKept` ties it to the host transaction. -/
structure Block.ConfigurationKept (a b : Block) : Prop where
  encEn : a.encEn = true → b.encEn = true
  divisor : a.encEn = true → b.clkInt = a.clkInt ∧ b.clkFrac = a.clkFrac
  decEn : a.decEn = true → b.decEn = true
  wdtEn : a.wdtEn = true → b.wdtEn = true
  cfgErr : a.cfgErr = true → b.cfgErr = true

theorem Block.ConfigurationKept.refl (a : Block) : a.ConfigurationKept a := ⟨id, fun _ => ⟨rfl, rfl⟩, id, id, id⟩

theorem Block.ConfigurationKept.trans {a b c : Block} (hab : a.ConfigurationKept b) (hbc : b.ConfigurationKept c) :
    a.ConfigurationKept c where
  encEn := hbc.encEn ∘ hab.encEn
  divisor hen :=
    have ⟨hint, hfrac⟩ := hab.divisor hen
    have ⟨hint', hfrac'⟩ := hbc.divisor (hab.encEn hen)
    ⟨hint'.trans hint, hfrac'.trans hfrac⟩
  decEn := hbc.decEn ∘ hab.decEn
  wdtEn := hbc.wdtEn ∘ hab.wdtEn
  cfgErr := hbc.cfgErr ∘ hab.cfgErr

/-- `Dfix` determines the two fields of CLKDIV, because FRAC has 8 bits (R40). -/
theorem divisor_of_dfix {a b : Block} (h : a.dfix = b.dfix) : a.clkInt = b.clkInt ∧ a.clkFrac = b.clkFrac := by
  have ha := a.clkFrac.isLt
  have hb := b.clkFrac.isLt
  unfold Block.dfix at h
  constructor <;> apply BitVec.eq_of_toNat_eq <;> omega

/-- No host transaction clears `cfg_err` (R153, R311). -/
theorem HostEffect.cfgErr_kept {s t : State} (h : HostEffect s t) (herr : s.blk.cfgErr = true) : t.blk.cfgErr = true := by
  cases h <;> simp [herr]

theorem HostEffect.configurationKept {s t : State} (h : HostEffect s t) : s.blk.ConfigurationKept t.blk := by
  obtain ⟨henc, hdec, hwdt⟩ := h.monotone
  exact ⟨fun hen => (henc hen).1, fun hen => divisor_of_dfix (henc hen).2, hdec, hwdt, h.cfgErr_kept⟩

/-- The hardware functions write none of the configuration bits, so a cycle without reset treats them as HostTxn does (R91). -/
theorem configurationKept_of_step {s t : State} {i : Inputs} (hi : RunsCycle s i) (hs : step s = .next t) :
    s.blk.ConfigurationKept t.blk := by
  obtain ⟨s1, -, he, rfl⟩ := runs_cases hi hs
  exact { he.configurationKept with }

/-- Settles O53: the invariant and the change since the start state are kept together along the run. -/
theorem configurationIsMonotone : Obligations.ConfigurationIsMonotone := by
  unfold Obligations.ConfigurationIsMonotone
  intro n s t hinv hu ht
  have hrun : Inv t ∧ s.blk.ConfigurationKept t.blk :=
    after_keeps (P := fun u => Inv u ∧ s.blk.ConfigurationKept u.blk)
      (fun u v _ ⟨hu, hk⟩ hi hs => ⟨invariantKeptByStep u v hu hs, hk.trans (configurationKept_of_step hi hs)⟩)
      hu ht ⟨hinv, .refl _⟩
  obtain ⟨hinv', hkept⟩ := hrun
  refine ⟨fun hen => ⟨hkept.encEn hen, hkept.divisor hen⟩, hkept.decEn, hkept.wdtEn, hkept.cfgErr, ?_⟩
  rintro ⟨hen, herr⟩
  simp [hinv'.exclusive hen] at herr

/-! ## Reading a field of a packed register

A register's value is a concatenation of its fields. The lemmas are used with `disch := omega`: a bit or a field is looked up
by dropping the fields below it. `BitVec.extractLsb'_append_eq_of_le` and `BitVec.extractLsb'_append_eq_of_add_le` do the same
for a field of several bits. -/

/-- Fields that fit the register are not cut by its width. -/
theorem getLsbD_setWidth_of_le {w w' : Nat} (x : BitVec w) (h : w ≤ w') (k : Nat) :
    (x.setWidth w').getLsbD k = x.getLsbD k := by
  rw [BitVec.getLsbD_setWidth]
  by_cases hk : k < w'
  · rw [decide_eq_true hk, Bool.true_and]
  · rw [decide_eq_false hk, Bool.false_and, BitVec.getLsbD_of_ge x k (by omega)]

/-- A bit of the lowest field. -/
theorem getLsbD_append_low {n m k : Nat} {x : BitVec n} {y : BitVec m} (h : k < m) :
    (x ++ y).getLsbD k = y.getLsbD k := by
  rw [BitVec.getLsbD_append, if_pos h]

/-- A bit above the lowest field. -/
theorem getLsbD_append_high {n m k : Nat} {x : BitVec n} {y : BitVec m} (h : m ≤ k) :
    (x ++ y).getLsbD k = x.getLsbD (k - m) := by
  rw [BitVec.getLsbD_append, if_neg (by omega)]

/-- The number that two adjacent fields form. -/
theorem toNat_append_eq_add {n m : Nat} (x : BitVec n) (y : BitVec m) :
    (x ++ y).toNat = x.toNat * 2 ^ m + y.toNat := by
  rw [BitVec.toNat_append, ← Nat.shiftLeft_add_eq_or_of_lt y.isLt, Nat.shiftLeft_eq]

/-! ## The reads -/

/-- Settles O21: the value of CTRL, bit by bit. -/
theorem ctrlReadResult : Obligations.CtrlReadResult := by
  unfold Obligations.CtrlReadResult
  intro s
  refine ⟨s.blk.ctrlValue, rfl, ?_⟩
  simp (disch := omega) only [Block.ctrlValue, getLsbD_setWidth_of_le, getLsbD_append_low, getLsbD_append_high,
    BitVec.getLsbD_ofBool, Nat.reduceSub, decide_true, Bool.true_and, true_and]
  rintro k (⟨hlo, hhi⟩ | hlo) <;>
    simp (disch := omega) only [getLsbD_append_low, getLsbD_append_high, BitVec.getLsbD_zero]

/-- `irq` is 1 exactly when an event is pending and enabled (R318). -/
theorem irq_iff (b : Block) : b.irq = true ↔ ∃ c, b.events.getLsbD c = true ∧ b.irqEn.getLsbD c = true := by
  simp only [← Bool.and_eq_true, ← BitVec.getLsbD_and, Block.irq, bne_iff_ne]
  constructor
  · intro hne
    by_contra hno
    simp only [not_exists, Bool.not_eq_true] at hno
    exact hne (BitVec.eq_of_getLsbD_eq fun c _ => by simpa using hno c)
  · rintro ⟨c, hc⟩ hz
    simp [hz] at hc

/-- STATUS.TX_EMPTY (R38). -/
theorem txEmpty_eq (b : Block) : b.txEmpty = decide (b.fifo = []) := by
  cases h : b.fifo <;> simp [Block.txEmpty, h]

/-- STATUS.TX_FULL (R38). -/
theorem txFull_eq (c : Config) (b : Block) : b.txFull c = decide (b.fifo.length = c.fifoDepth) := rfl

theorem encStateCode_toNat (st : EncState) :
    (encStateCode st).toNat = match st with | .idle => 0 | .bit => 1 | .gap => 2 := by
  cases st <;> rfl

theorem encBitidx_toNat (b : Block) :
    b.encBitidx.toNat = match b.enc.st with | .bit => b.enc.bitidx % 32 | .idle => 0 | .gap => 0 := by
  cases h : b.enc.st <;> simp [Block.encBitidx, h]

/-- Settles O22: the value of STATUS, field by field. -/
theorem statusReadResult : Obligations.StatusReadResult := by
  unfold Obligations.StatusReadResult
  intro s
  refine ⟨s.blk.statusValue s.cfg, rfl, ?_⟩
  simp (disch := omega) only [Block.statusValue, getLsbD_setWidth_of_le, getLsbD_append_low, getLsbD_append_high,
    BitVec.extractLsb'_setWidth_of_le, BitVec.extractLsb'_append_eq_of_le, BitVec.extractLsb'_append_eq_of_add_le,
    BitVec.getLsbD_ofBool, BitVec.extractLsb'_eq_self, Nat.reduceSub, decide_true, Bool.true_and, true_and]
  refine ⟨txEmpty_eq _, txFull_eq _ _, irq_iff _, encStateCode_toNat _, BitVec.toNat_ofNat _ _, encBitidx_toNat _, ?_⟩
  rintro k (rfl | rfl | hk) <;>
    simp (disch := omega) only [getLsbD_append_low, getLsbD_append_high, BitVec.getLsbD_zero]

/-- Settles O23: the numbers that the fields form. -/
theorem eventsAndDivisorReadResults : Obligations.EventsAndDivisorReadResults := by
  unfold Obligations.EventsAndDivisorReadResults
  intro s
  refine ⟨⟨s.blk.eventsValue, rfl, ?_⟩, ⟨s.blk.clkdivValue, rfl, ?_⟩⟩
  · rw [Block.eventsValue, BitVec.toNat_setWidth_of_le (by decide), toNat_append_eq_add]
    simp
  · rw [Block.clkdivValue, BitVec.toNat_setWidth_of_le (by decide), toNat_append_eq_add, toNat_append_eq_add]
    simp
    omega

/-- A parameter within the range of its field is returned as it is. -/
theorem toNat_ofNat_of_lt {w n : Nat} (h : n < 2 ^ w) : (BitVec.ofNat w n).toNat = n := by
  rw [BitVec.toNat_ofNat, Nat.mod_eq_of_lt h]

/-- Settles O26: every parameter fits its field, T1, T2 and T3 by hypothesis and the others by R6's ranges. -/
theorem parameterReadResults : Obligations.ParameterReadResults := by
  unfold Obligations.ParameterReadResults
  intro s hcfg h1 h2 h3
  obtain ⟨-, -, -, -, hpull, -, hfifo, -, hreset, -, -, hthr⟩ := problem_none hcfg
  refine ⟨⟨param0Value s.cfg, rfl, ?_⟩, ⟨param1Value s.cfg, rfl, ?_⟩, ⟨wdtThreshValue s.cfg, rfl, toNat_ofNat_of_lt hthr⟩⟩
  · rw [param0Value, BitVec.toNat_setWidth_of_le (by decide)]
    simp (disch := omega) only [toNat_append_eq_add, toNat_ofNat_of_lt]
    omega
  · rw [param1Value, BitVec.toNat_setWidth_of_le (by decide)]
    simp (disch := omega) only [toNat_append_eq_add, toNat_ofNat_of_lt]
    cases s.cfg.bitOrder <;> simp [bitOrderField] <;> omega

/-- The codes of R310, with 0 for no record. -/
theorem causeField_toNat (e : BusErr) :
    e.causeField.toNat = match e.cause with
      | none => 0 | some .misaligned => 1 | some .size => 2 | some .unmapped => 3 | some .access => 4
      | some .locked => 5 | some .notStarted => 6 | some .config => 7 := by
  unfold BusErr.causeField
  rcases e.cause with _ | c
  · rfl
  · cases c <;> rfl

/-- Settles O28: the value of BUSERR, field by field. -/
theorem errorRecordReadResult : Obligations.ErrorRecordReadResult := by
  unfold Obligations.ErrorRecordReadResult
  intro s
  refine ⟨s.blk.busErr.value, rfl, ?_⟩
  simp (disch := omega) only [BusErr.value, getLsbD_setWidth_of_le, getLsbD_append_low, getLsbD_append_high,
    BitVec.extractLsb'_setWidth_of_le, BitVec.extractLsb'_append_eq_of_le, BitVec.extractLsb'_append_eq_of_add_le,
    BitVec.getLsbD_ofBool, BitVec.extractLsb'_eq_self, Nat.reduceSub, decide_true, Bool.true_and, true_and]
  refine ⟨causeField_toNat _, ?_⟩
  rintro k (⟨hlo, hhi⟩ | hlo) <;>
    simp (disch := omega) only [getLsbD_append_low, getLsbD_append_high, BitVec.getLsbD_zero]

/-! ## The writes -/

/-- R151's condition for refusing a start, on the bits and numbers. -/
theorem startRefused_iff (v : Word) (b : Block) :
    startRefused v b = true ↔
      v.getLsbD 0 = true ∧ b.encEn = false ∧ (b.clkInt.toNat = 0 ∨ b.cfgErr = true) := by
  simp [startRefused, ctrlEncReq, ← BitVec.toNat_inj, and_assoc]

/-- WR CTRL that is accepted (R151). -/
theorem exec_wrCtrl_of_accepted {v : Word} {s : State} (h : ¬ startRefused v s.blk = true) :
    exec (.wrCtrl v) s = .next (s.writeCompletes (s.blk.writeCtrl v)) := by
  rw [exec, execWrCtrl, if_neg h]

/-- WR CTRL that is refused (R151). -/
theorem exec_wrCtrl_of_refused {v : Word} {s : State} (h : startRefused v s.blk = true) :
    exec (.wrCtrl v) s = .next (s.busError .config true Reg.ctrl.offset) := by
  rw [exec, execWrCtrl, if_pos h]

/-- IRQ_EN is WDATA[10:8] (R122). -/
theorem ctrlIrqEn_getLsbD (v : Word) {k : Nat} (h : k < 3) : (ctrlIrqEn v).getLsbD k = v.getLsbD (8 + k) := by
  simp [ctrlIrqEn, h]

/-- Settles O29: each way to be accepted contradicts one condition of the refusal. -/
theorem ctrlWriteAccepted : Obligations.CtrlWriteAccepted := by
  unfold Obligations.CtrlWriteAccepted
  intro s v hacc
  have hnot : ¬ startRefused v s.blk = true := by
    rw [startRefused_iff]
    rintro ⟨hreq, hstopped, hbad⟩
    rcases hacc with hno | hrun | ⟨hint, herr⟩
    · simp only [hno, Bool.false_eq_true] at hreq
    · simp [hrun] at hstopped
    · simp [hint, herr] at hbad
  exact ⟨ctrlIrqEn v, fun k hk => ctrlIrqEn_getLsbD v hk, exec_wrCtrl_of_accepted hnot⟩

/-- ERR_CONFIG also sets `cfg_err` (R311). -/
theorem State.busError_config (we : Bool) (a : Offset) (s : State) :
    s.busError .config we a =
      { s with
        blk := { s.blk with cfgErr := true, busErr := s.blk.busErr.record .config we a }
        out := { ready := true, resp := true, rdata := 0 } } := by
  simp only [State.busError, beq_self_eq_true, Bool.or_true]

/-- Settles O30: the three hypotheses are the refusal's condition. -/
theorem ctrlWriteRefusedStart : Obligations.CtrlWriteRefusedStart := by
  unfold Obligations.CtrlWriteRefusedStart
  intro s v hreq hstopped hbad
  have href : startRefused v s.blk = true := (startRefused_iff v s.blk).2 ⟨hreq, hstopped, hbad⟩
  exact (exec_wrCtrl_of_refused href).trans (congrArg _ (State.busError_config true Reg.ctrl.offset s))

/-- Settles O31: the clear mask is WDATA[2:0], and WR BUSERR does not read its data. -/
theorem eventAndErrorRecordWrites : Obligations.EventAndErrorRecordWrites := by
  unfold Obligations.EventAndErrorRecordWrites
  intro s v
  refine ⟨⟨s.blk.events &&& ~~~(eventsClear v), fun k hk => ?_, rfl⟩, rfl⟩
  simp only [BitVec.getLsbD_and, BitVec.getLsbD_not, eventsClear_getLsbD v hk, hk, decide_true, Bool.true_and]

end Sys2Proof.Machine
end

section
/-! PROOFS. The encoder's own transactions (41_encoder.md): the divisor write (R186) and the queue write (R190), by the state that
each finds. -/

namespace Sys2Proof.Machine

/-! ## WR CLKDIV (R186) -/

/-- INT is WDATA[31:16] (R122). -/
theorem clkdivInt_toNat (v : Word) : (clkdivInt v).toNat = v.toNat / 65536 := by
  rw [clkdivInt, BitVec.extractLsb'_toNat, Nat.shiftRight_eq_div_pow]
  omega

/-- FRAC is WDATA[15:8] (R122). -/
theorem clkdivFrac_toNat (v : Word) : (clkdivFrac v).toNat = v.toNat / 256 % 256 := by
  rw [clkdivFrac, BitVec.extractLsb'_toNat, Nat.shiftRight_eq_div_pow]

theorem exec_wrClkdiv_of_stopped {s : State} (hstopped : s.blk.encEn = false) (v : Word) :
    exec (.wrClkdiv v) s =
      .next (s.writeCompletes { s.blk with clkInt := clkdivInt v, clkFrac := clkdivFrac v }) := by
  simp [exec, execWrClkdiv, hstopped]

theorem exec_wrClkdiv_of_started {s : State} (hen : s.blk.encEn = true) (v : Word) :
    exec (.wrClkdiv v) s = .next (s.busError .locked true Reg.clkdiv.offset) := by
  simp [exec, execWrClkdiv, hen]

/-- Settles O32: the two fields of WDATA are the numbers of the statement. -/
theorem divisorWriteBeforeStart : Obligations.DivisorWriteBeforeStart := by
  unfold Obligations.DivisorWriteBeforeStart
  intro s v hstopped
  exact ⟨clkdivInt v, clkdivFrac v, clkdivInt_toNat v, clkdivFrac_toNat v, exec_wrClkdiv_of_stopped hstopped v⟩

/-- Settles O33: ERR_LOCKED changes BUSERR only. -/
theorem divisorWriteLocked : Obligations.DivisorWriteLocked := by
  unfold Obligations.DivisorWriteLocked
  intro s v hen
  rw [exec_wrClkdiv_of_started hen, State.busError_of_ne_config (by decide)]
  rfl

/-! ## WR TXFIFO (R190) -/

theorem exec_wrTxfifo_of_stopped {s : State} (hstopped : s.blk.encEn = false) (w : Word) :
    exec (.wrTxfifo w) s = .next (s.busError .notStarted true Reg.txfifo.offset) := by
  simp [exec, execWrTxfifo, hstopped]

theorem exec_wrTxfifo_of_full {s : State} (hen : s.blk.encEn = true) (hfull : s.blk.fifo.length = s.cfg.fifoDepth)
    (w : Word) : exec (.wrTxfifo w) s = .next s.stalls := by
  simp [exec, execWrTxfifo, txFull_eq, hen, hfull]

theorem exec_wrTxfifo_of_space {s : State} (hen : s.blk.encEn = true) (hspace : s.blk.fifo.length ≠ s.cfg.fifoDepth)
    (w : Word) : exec (.wrTxfifo w) s = .next (s.writeCompletes { s.blk with fifo := s.blk.fifo ++ [w] }) := by
  simp [exec, execWrTxfifo, txFull_eq, hen, hspace]

/-- Settles O34: the accepted write, with its response written out. -/
theorem queueWriteAccepted : Obligations.QueueWriteAccepted := by
  unfold Obligations.QueueWriteAccepted
  exact fun _ w hen hspace => exec_wrTxfifo_of_space hen hspace w

/-- Settles O35: the check of the start comes before the check of the queue. -/
theorem queueWriteStallsOrFails : Obligations.QueueWriteStallsOrFails := by
  unfold Obligations.QueueWriteStallsOrFails
  refine fun s w => ⟨fun hen hfull => exec_wrTxfifo_of_full hen hfull w, fun hstopped => ?_⟩
  rw [exec_wrTxfifo_of_stopped hstopped, State.busError_of_ne_config (by decide)]
  rfl

end Sys2Proof.Machine
end

section
/-! PROOFS. The encoder in one cycle (41_encoder.md R181, R191, R202, R208): what it does with a tick and without one, what it
takes from the queue, and that none of it depends on the transaction. -/

namespace Sys2Proof.Machine

/-! ## EncoderStep, by the tick and the unit's end (R202) -/

theorem nextEnc_of_no_tick {c : Config} {b : Block} (h : b.encTick = false) : b.nextEnc c = b.enc := by
  simp [Block.nextEnc, h]

theorem nextEnc_inside_unit {c : Config} {b : Block} {e : Encoder} (h : b.encTick = true)
    (he : b.enc.finishCycle c = some e) : b.nextEnc c = e.drive c := by
  simp [Block.nextEnc, Encoder.onTick, h, he]

theorem nextEnc_at_end {c : Config} {b : Block} (h : b.encTick = true) (he : b.enc.finishCycle c = none) :
    b.nextEnc c = (b.enc.startUnit c b.fifo.head?).drive c := by
  simp [Block.nextEnc, Encoder.onTick, h, he]

/-- R191: the queue is read at the end of a unit only. -/
theorem pops_iff {c : Config} {b : Block} :
    b.pops c = true ↔ b.encTick = true ∧ b.enc.finishCycle c = none ∧ b.fifo ≠ [] :=
  ⟨pops_fifo, fun ⟨htick, hend, hne⟩ => by simp [Block.pops, htick, hend, hne]⟩

theorem not_pops_of_no_tick {c : Config} {b : Block} (h : b.encTick = false) : b.pops c = false := by
  simp [Block.pops, h]

theorem not_pops_inside_unit {c : Config} {b : Block} {e : Encoder} (he : b.enc.finishCycle c = some e) :
    b.pops c = false := by
  simp [Block.pops, he]

/-- No host transaction takes a word from the queue (R91). -/
theorem HostEffect.fifo_appends {s t : State} (h : HostEffect s t) : ∃ ws, t.blk.fifo = s.blk.fifo ++ ws := by
  cases h with
  | push w _ _ => exact ⟨[w], rfl⟩
  | _ => exact ⟨[], (List.append_nil _).symm⟩

/-- What a cycle without reset does to the encoder and the queue, whatever the transaction. -/
theorem step_encoder_fifo {s : State} {i : Inputs} (hi : RunsCycle s i) :
    ∃ t ws, step s = .next t ∧ t.blk.enc = s.blk.nextEnc s.cfg ∧
      t.blk.fifo = (if s.blk.pops s.cfg then s.blk.fifo.tail else s.blk.fifo) ++ ws := by
  obtain ⟨s1, hhost, he⟩ := hostTxn_effect i.port s
  obtain ⟨ws, hws⟩ := he.fifo_appends
  have hstep : step s = .next (s.commit i s1) := by rw [step_of_runs hi, runCycle_of_host hi.noReset hhost]
  exact ⟨_, ws, hstep, rfl, commit_fifo_of_append i hws⟩

/-- Settles O15: the commit computes these elements from the start state and the signal inputs. -/
theorem unitsIgnoreTheHostPort : Obligations.UnitsIgnoreTheHostPort := by
  unfold Obligations.UnitsIgnoreTheHostPort
  intro s t u i p hr ht hu
  obtain ⟨s1, h1, -⟩ := hostTxn_effect i.port s
  obtain ⟨s2, h2, -⟩ := hostTxn_effect p s
  rw [runCycle_of_host hr h1] at ht
  rw [runCycle_of_host (i := { i with port := p }) hr h2] at hu
  cases ht
  cases hu
  exact ⟨rfl, rfl, rfl, rfl, rfl, rfl, rfl, rfl, rfl, rfl, rfl, rfl⟩

/-- Settles O43: without a tick EncoderStep does nothing. -/
theorem encoderRestsWithoutTick : Obligations.EncoderRestsWithoutTick := by
  unfold Obligations.EncoderRestsWithoutTick
  intro s i hi htick
  obtain ⟨t, ws, hs, henc, hfifo⟩ := step_encoder_fifo hi
  rw [nextEnc_of_no_tick htick] at henc
  rw [if_neg (by simp [not_pops_of_no_tick htick])] at hfifo
  exact ⟨t, hs, henc, congrArg Encoder.dout henc, ws, hfifo.symm⟩

/-- Settles O60: inside a unit EncoderStep drives the finished cycle's successor. -/
theorem tickInsideUnit : Obligations.TickInsideUnit := by
  unfold Obligations.TickInsideUnit
  intro s i e hi htick he
  obtain ⟨t, ws, hs, henc, hfifo⟩ := step_encoder_fifo hi
  rw [nextEnc_inside_unit htick he] at henc
  rw [if_neg (by simp [not_pops_inside_unit he])] at hfifo
  exact ⟨t, hs, henc, congrArg Encoder.dout henc, ws, hfifo.symm⟩

/-! ## The start of a unit (R200, R203, R205, R207) -/

theorem startUnit_sentinel {w : Word} (hw : w = 0) (c : Config) (e : Encoder) :
    e.startUnit c (some w) = { e with st := .gap, gcnt := c.resetCycles } :=
  if_pos hw

theorem startUnit_word {w : Word} (hw : w ≠ 0) (c : Config) (e : Encoder) :
    e.startUnit c (some w) = { e with st := .bit, osr := w, bitidx := 0, phase := 0 } :=
  if_neg hw

/-- The level within a bit: high for T1, the bit for T2, low for T3 (R204). -/
theorem level_bit (c : Config) (w : Word) (i p : Nat) :
    level c .bit w i p = (decide (p < c.t1) || (decide (p < c.t1 + c.t2) && serialBit c w i)) := by
  by_cases h1 : p < c.t1 <;> by_cases h2 : p < c.t1 + c.t2 <;> simp [level, h1, h2]

/-- Settles O42: at the end of a unit EncoderStep starts one from the queue's head and takes it; the first level of a word is
high because T1 is positive. -/
theorem nextUnitStartsAtOnce : Obligations.NextUnitStartsAtOnce := by
  unfold Obligations.NextUnitStartsAtOnce
  intro s i hi htick hend
  obtain ⟨t, ws, hs, henc, hfifo⟩ := step_encoder_fifo hi
  obtain ⟨ht1, -⟩ := problem_none hi.cfgOk
  rw [nextEnc_at_end htick hend] at henc
  have hrest {w : Word} {rest : List Word} (hq : s.blk.fifo = w :: rest) : rest <+: t.blk.fifo := by
    have hpop : s.blk.pops s.cfg = true := pops_iff.2 ⟨htick, hend, by simp [hq]⟩
    rw [if_pos hpop, hq] at hfifo
    exact ⟨ws, hfifo.symm⟩
  refine ⟨t, hs, fun hq => ?_, fun rest hq => ?_, fun w rest hw hq => ?_⟩
  · rw [henc, hq]
    exact ⟨rfl, rfl⟩
  · rw [henc, hq, List.head?_cons, startUnit_sentinel (w := 0#32) rfl]
    exact ⟨rfl, rfl, rfl, hrest hq⟩
  · rw [henc, hq, List.head?_cons, startUnit_word hw]
    exact ⟨rfl, rfl, rfl, rfl, if_pos ht1, hrest hq⟩

end Sys2Proof.Machine
end

section
/-! PROOFS. The units of the waveform (41_encoder.md R200 to R205): how many encoder cycles a unit has left, and which encoder
cycle of a word or of a gap a number of ticks leads to. -/

namespace Sys2Proof.Machine

/-! ## The encoder cycles that a unit has left -/

/-- The ticks up to and including the one that ends the current unit; an idle encoder asks for a word at every tick (R207). -/
def Encoder.ticksLeft (c : Config) (e : Encoder) : Nat :=
  match e.st with
  | .idle => 1
  | .bit => (c.pullBits - e.bitidx) * c.bitCycles - e.phase
  | .gap => e.gcnt

/-- The counters of the current unit are in the ranges of R57. The counters that the unit does not use are free, as they are
where a unit starts. -/
structure Encoder.UnitInRange (c : Config) (e : Encoder) : Prop where
  bit : e.st = .bit → e.bitidx < c.pullBits ∧ e.phase < c.bitCycles
  gap : e.st = .gap → 1 ≤ e.gcnt

theorem Encoder.InRange.unitInRange {c : Config} {e : Encoder} (h : e.InRange c) : e.UnitInRange c :=
  ⟨fun _ => ⟨h.bitidx, h.phase⟩, h.inGap⟩

/-- The unit ends with the tick that it has left. -/
theorem finishCycle_eq_none_iff {c : Config} {e : Encoder} (h : e.UnitInRange c) :
    e.finishCycle c = none ↔ e.ticksLeft c = 1 := by
  cases hs : e.st with
  | idle => simp [Encoder.finishCycle, Encoder.ticksLeft, hs]
  | gap =>
    have := h.gap hs
    simp only [Encoder.finishCycle, Encoder.ticksLeft, hs, ite_eq_right_iff, reduceCtorEq, imp_false]
    omega
  | bit =>
    obtain ⟨hb, hp⟩ := h.bit hs
    obtain ⟨k, hk⟩ : ∃ k, c.pullBits - e.bitidx = k + 1 := ⟨c.pullBits - e.bitidx - 1, by omega⟩
    have hlast : e.ticksLeft c = k * c.bitCycles + (c.bitCycles - e.phase) := by
      simp only [Encoder.ticksLeft, hs, hk, Nat.succ_mul]
      omega
    have hmore : k ≠ 0 → c.bitCycles ≤ k * c.bitCycles := fun hk0 => Nat.le_mul_of_pos_left _ (Nat.pos_of_ne_zero hk0)
    simp only [Encoder.finishCycle, hs, hlast]
    split
    · simp only [reduceCtorEq, false_iff]
      omega
    · split
      · have := hmore (by omega)
        simp only [reduceCtorEq, false_iff]
        omega
      · obtain rfl : k = 0 := by omega
        simp only [true_iff]
        omega

/-- A tick inside a unit takes one encoder cycle from it. -/
theorem ticksLeft_of_finishCycle {c : Config} {e e' : Encoder} (h : e.UnitInRange c) (he : e.finishCycle c = some e') :
    e.ticksLeft c = e'.ticksLeft c + 1 := by
  obtain ⟨hst, -, ⟨hs, hlt, hp, hb, -⟩ | ⟨hs, hlast, hlt, hp, hb, -⟩ | ⟨hs, hlt, hg, -, -⟩⟩ := finishCycle_some he
  · have := Nat.le_mul_of_pos_left c.bitCycles (show 0 < c.pullBits - e.bitidx by have := h.bit hs; omega)
    simp only [Encoder.ticksLeft, hst, hs, hp, hb]
    omega
  · obtain ⟨-, hphase⟩ := h.bit hs
    have hsplit : c.pullBits - e.bitidx = (c.pullBits - (e.bitidx + 1)) + 1 := by omega
    simp only [Encoder.ticksLeft, hst, hs, hp, hb, hsplit, Nat.succ_mul]
    omega
  · simp only [Encoder.ticksLeft, hst, hs, hg]
    omega

theorem ticksLeft_pos {c : Config} {e : Encoder} (h : e.UnitInRange c) : 1 ≤ e.ticksLeft c := by
  cases he : e.finishCycle c with
  | none => exact ((finishCycle_eq_none_iff h).1 he).ge
  | some e' => exact (ticksLeft_of_finishCycle h he).symm ▸ Nat.le_add_left _ _

/-- No unit is longer than R193's U. -/
theorem ticksLeft_le_longestUnit {c : Config} (hc : c.problem = none) {e : Encoder} (h : e.InRange c) :
    e.ticksLeft c ≤ c.longestUnit := by
  have hreset := resetCycles_pos hc
  have hword : (c.pullBits - e.bitidx) * c.bitCycles ≤ c.pullBits * c.bitCycles :=
    Nat.mul_le_mul_right _ (Nat.sub_le _ _)
  have hgap := h.gcnt
  unfold Encoder.ticksLeft Config.longestUnit
  cases e.st <;> simp only <;> omega

/-! ## A word (R201, R204, R205) -/

/-- The next number within a bit period. -/
theorem div_mod_succ_of_lt {n b : Nat} (h : n % b < b - 1) : (n + 1) / b = n / b ∧ (n + 1) % b = n % b + 1 := by
  have := Nat.mod_add_div n b
  exact (Nat.div_mod_unique (by omega)).2 ⟨by omega, by omega⟩

/-- The next number at the end of a bit period. -/
theorem div_mod_succ_of_not_lt {n b : Nat} (hb : 0 < b) (h : ¬ n % b < b - 1) :
    (n + 1) / b = n / b + 1 ∧ (n + 1) % b = 0 := by
  have := Nat.mod_add_div n b
  have := Nat.mod_lt n hb
  exact (Nat.div_mod_unique hb).2 ⟨by rw [Nat.mul_succ]; omega, hb⟩

/-- Encoder cycle `n` of the word `w`, from its start on; `startUnit_eq_inWord` and `onTick_inWord` tie it to the serializer. -/
def Encoder.inWord (c : Config) (w : Word) (n : Nat) (e : Encoder) : Encoder :=
  ({ e with st := .bit, osr := w, bitidx := n / c.bitCycles, phase := n % c.bitCycles }).drive c

theorem startUnit_eq_inWord {w : Word} (hw : w ≠ 0) (c : Config) (e : Encoder) :
    (e.startUnit c (some w)).drive c = e.inWord c w 0 := by
  rw [startUnit_word hw, Encoder.inWord, Nat.zero_div, Nat.zero_mod]

theorem onTick_inWord {c : Config} (hc : c.problem = none) (q : List Word) (w : Word) (e : Encoder) {n : Nat}
    (hn : n + 1 < c.pullBits * c.bitCycles) : (e.inWord c w n).onTick c q = e.inWord c w (n + 1) := by
  have hb := bitCycles_pos hc
  by_cases hphase : n % c.bitCycles < c.bitCycles - 1
  · obtain ⟨hdiv, hmod⟩ := div_mod_succ_of_lt hphase
    simp [Encoder.onTick, Encoder.finishCycle, Encoder.inWord, Encoder.drive, hphase, hdiv, hmod]
  · obtain ⟨hdiv, hmod⟩ := div_mod_succ_of_not_lt (by omega) hphase
    have hbit : n / c.bitCycles < c.pullBits - 1 := by
      have := Nat.div_lt_of_lt_mul (Nat.mul_comm _ _ ▸ hn)
      omega
    simp [Encoder.onTick, Encoder.finishCycle, Encoder.inWord, Encoder.drive, hphase, hbit, hdiv, hmod]

theorem iterate_onTick_word {c : Config} (hc : c.problem = none) (q : List Word) {w : Word} (hw : w ≠ 0) (e : Encoder)
    {n : Nat} (hn : n < c.pullBits * c.bitCycles) :
    (Encoder.onTick c q)^[n] ((e.startUnit c (some w)).drive c) = e.inWord c w n := by
  induction n with
  | zero => exact startUnit_eq_inWord hw c e
  | succ n ih => rw [Function.iterate_succ_apply', ih (by omega), onTick_inWord hc q w e hn]

theorem inWord_unitInRange {c : Config} (hc : c.problem = none) (w : Word) (e : Encoder) {n : Nat}
    (hn : n < c.pullBits * c.bitCycles) : (e.inWord c w n).UnitInRange c where
  bit _ := ⟨Nat.div_lt_of_lt_mul (Nat.mul_comm _ _ ▸ hn), Nat.mod_lt _ (by have := bitCycles_pos hc; omega)⟩
  gap h := by simp [Encoder.inWord] at h

theorem ticksLeft_inWord (c : Config) (w : Word) (n : Nat) (e : Encoder) :
    (e.inWord c w n).ticksLeft c = c.pullBits * c.bitCycles - n := by
  have := Nat.div_add_mod n c.bitCycles
  simp only [Encoder.ticksLeft, Encoder.inWord, Encoder.drive_st, Encoder.drive_bitidx, Encoder.drive_phase,
    Nat.sub_mul, Nat.mul_comm (n / c.bitCycles)]
  omega

/-- Settles O40: `n` ticks lead to encoder cycle `n`, whose bit and phase are the quotient and the remainder. -/
theorem wordWaveform : Obligations.WordWaveform := by
  unfold Obligations.WordWaveform
  intro c q e w n hc hw hn
  simp only [iterate_onTick_word hc q hw e hn, finishCycle_eq_none_iff (inWord_unitInRange hc w e hn), ticksLeft_inWord]
  exact ⟨rfl, rfl, rfl, rfl, level_bit c w _ _, by omega⟩

/-! ## A gap (R200, R203) -/

/-- Encoder cycle `n` of a gap; `startUnit_eq_inGap` and `onTick_inGap` tie it to the serializer. -/
def Encoder.inGap (c : Config) (n : Nat) (e : Encoder) : Encoder :=
  ({ e with st := .gap, gcnt := c.resetCycles - n }).drive c

theorem startUnit_eq_inGap (c : Config) (e : Encoder) : (e.startUnit c (some 0)).drive c = e.inGap c 0 := by
  rw [startUnit_sentinel rfl, Encoder.inGap, Nat.sub_zero]

theorem onTick_inGap {c : Config} (q : List Word) (e : Encoder) {n : Nat} (hn : n + 1 < c.resetCycles) :
    (e.inGap c n).onTick c q = e.inGap c (n + 1) := by
  have hmore : 1 < c.resetCycles - n := by omega
  simp [Encoder.onTick, Encoder.finishCycle, Encoder.inGap, Encoder.drive, hmore, Nat.sub_sub]

theorem iterate_onTick_gap {c : Config} (q : List Word) (e : Encoder) {n : Nat} (hn : n < c.resetCycles) :
    (Encoder.onTick c q)^[n] ((e.startUnit c (some 0)).drive c) = e.inGap c n := by
  induction n with
  | zero => exact startUnit_eq_inGap c e
  | succ n ih => rw [Function.iterate_succ_apply', ih (by omega), onTick_inGap q e hn]

theorem inGap_unitInRange {c : Config} (e : Encoder) {n : Nat} (hn : n < c.resetCycles) :
    (e.inGap c n).UnitInRange c where
  bit h := by simp [Encoder.inGap] at h
  gap _ := Nat.sub_pos_of_lt hn

/-- Settles O41: `n` ticks lead to encoder cycle `n` of the gap. -/
theorem gapWaveform : Obligations.GapWaveform := by
  unfold Obligations.GapWaveform
  intro c q e n _ hn
  rw [← Config.resetCycles] at hn ⊢
  have hleft : (e.inGap c n).ticksLeft c = c.resetCycles - n := rfl
  simp only [iterate_onTick_gap q e hn, finishCycle_eq_none_iff (inGap_unitInRange e hn), hleft]
  exact ⟨rfl, rfl, rfl, by omega⟩

end Sys2Proof.Machine
end

section
/-! PROOFS. The running divider (41_encoder.md R181, R182): the accumulator holds what the elapsed cycles leave after the ticks. -/

namespace Sys2Proof.Machine

/-- A started encoder with the divisor `d`, in a state that meets the invariant. -/
structure State.Running (d : Nat) (s : State) : Prop where
  inv : Inv s
  started : s.blk.encEn = true
  dfix : s.blk.dfix = d

theorem State.Running.dfix_ge {d : Nat} {s : State} (h : s.Running d) : 256 ≤ d :=
  h.dfix ▸ Machine.dfix_ge (h.inv.divisorLegal h.started)

theorem State.Running.divAcc_lt {d : Nat} {s : State} (h : s.Running d) : s.blk.divAcc < d :=
  h.dfix ▸ h.inv.divAccBound h.started

theorem State.Running.encTick_iff {d : Nat} {s : State} (h : s.Running d) :
    s.blk.encTick = true ↔ d ≤ s.blk.divAcc + 256 := by
  simp [Block.encTick, h.started, h.dfix]

/-- A cycle without reset keeps the encoder running, at the same divisor (R153). -/
theorem State.Running.step {d : Nat} {s t : State} {i : Inputs} (h : s.Running d) (hi : RunsCycle s i)
    (hs : Machine.step s = .next t) : t.Running d := by
  have hkept := configurationKept_of_step hi hs
  obtain ⟨hint, hfrac⟩ := hkept.divisor h.started
  exact ⟨invariantKeptByStep s t h.inv hs, hkept.encEn h.started, by simpa [Block.dfix, hint, hfrac] using h.dfix⟩

/-- A cycle adds 256 to the accumulator, and a tick takes Dfix from it (R181). -/
theorem State.Running.divAcc_step {d : Nat} {s t : State} {i : Inputs} (h : s.Running d) (hi : RunsCycle s i)
    (hs : Machine.step s = .next t) :
    s.blk.divAcc + 256 = d * (if s.blk.encTick then 1 else 0) + t.blk.divAcc := by
  obtain ⟨s1, -, -, rfl⟩ := runs_cases hi hs
  have htick := h.encTick_iff
  simp only [State.commit_blk, Block.commit_divAcc, Block.nextDivAcc, h.started, if_true, h.dfix]
  split <;> simp_all

theorem countCycles_succ {p : State → Bool} {n : Nat} {s u : State} (h : step s = .next u) :
    countCycles p (n + 1) s = (if p s then 1 else 0) + countCycles p n u := by
  simp [countCycles, h]

/-- The divider's account over a run: 256 for each cycle is Dfix for each tick and the accumulator's growth. -/
theorem State.Running.divAcc_after {d j : Nat} {s t : State} (h : s.Running d) (hu : Undisturbed j s)
    (ht : s.after j = .next t) :
    t.Running d ∧
      s.blk.divAcc + 256 * j = d * countCycles (fun u => u.blk.encTick) j s + t.blk.divAcc := by
  induction j generalizing s with
  | zero => cases ht; exact ⟨h, by simp [countCycles]⟩
  | succ j ih =>
    obtain ⟨u, hs, ht⟩ := after_succ ht
    obtain ⟨i, hi⟩ := hu.runs hs
    obtain ⟨hrun, hsum⟩ := ih (h.step hi hs) (hu.tail hs) ht
    have hfirst := h.divAcc_step hi hs
    rw [countCycles_succ hs, Nat.mul_add]
    exact ⟨hrun, by linarith only [hfirst, hsum]⟩

/-- Settles O38: with an empty accumulator at the start, the ticks and the accumulator are the quotient and the remainder of
`256 * j` by Dfix. -/
theorem dividerTickTimes : Obligations.DividerTickTimes := by
  unfold Obligations.DividerTickTimes
  intro j s t hinv hen hacc hu ht
  have hrun : s.Running s.blk.dfix := ⟨hinv, hen, rfl⟩
  obtain ⟨hend, hsum⟩ := hrun.divAcc_after hu ht
  generalize s.blk.dfix = d at hrun hend hsum ⊢
  generalize countCycles _ j s = n at hsum ⊢
  have hd := hend.dfix_ge
  have hlt := hend.divAcc_lt
  have quotient {m r q : Nat} (heq : r + d * q = m) (hr : r < d) : m / d = q :=
    ((Nat.div_mod_unique (by omega)).2 ⟨heq, hr⟩).1
  have hnow : 256 * j / d = n := quotient (r := t.blk.divAcc) (by omega) hlt
  refine ⟨hnow.symm, hend.dfix, ?_⟩
  rw [hend.encTick_iff, hnow]
  by_cases htick : d ≤ t.blk.divAcc + 256
  · have hnext : 256 * (j + 1) / d = n + 1 :=
      quotient (r := t.blk.divAcc + 256 - d) (by rw [Nat.mul_succ]; omega) (by omega)
    simp [htick, hnext]
  · have hnext : 256 * (j + 1) / d = n := quotient (r := t.blk.divAcc + 256) (by omega) (by omega)
    simp [htick, hnext]

end Sys2Proof.Machine
end

section
/-! PROOFS. The bound on a stall (41_encoder.md R193): the longest unit is over after U ticks, the tick that ends it takes a word
from the full queue, and the write completes in the cycle after that one. -/

namespace Sys2Proof.Machine

/-! ## What the host keeps doing, and what it waits for -/

/-- The host presents WR TXFIFO of `w` in the next cycle and in `n` more (R95). -/
def State.KeepsWriting (w : Word) (n : Nat) (s : State) : Prop :=
  ∀ k, k ≤ n → ∃ i, s.stimulusAt k = .cycle i ∧ i.rst = false ∧ Presents i (.wrTxfifo w)

theorem State.KeepsWriting.tail {w : Word} {n : Nat} {s u : State} (h : s.KeepsWriting w (n + 1))
    (hu : step s = .next u) : u.KeepsWriting w n := by
  intro k hk
  rw [stimulusAt_of_step hu]
  exact h (k + 1) (by omega)

theorem State.KeepsWriting.mono {w : Word} {m n : Nat} {s : State} (h : s.KeepsWriting w n) (hm : m ≤ n) :
    s.KeepsWriting w m :=
  fun k hk => h k (hk.trans hm)

theorem State.KeepsWriting.presents {w : Word} {n d : Nat} {s : State} (h : s.KeepsWriting w n) (hrun : s.Running d) :
    ∃ i, RunsCycle s i ∧ Presents i (.wrTxfifo w) := by
  obtain ⟨i, hi, hr, hp⟩ := h 0 (Nat.zero_le n)
  exact ⟨i, ⟨hrun.inv.cfgOk, hi, hr⟩, hp⟩

/-- Cycle `j` completes the write of `w` with OKAY, and every cycle before it stalls. -/
def State.WriteCompletesIn (w : Word) (j : Nat) (s : State) : Prop :=
  ∃ t, s.after (j + 1) = .next t ∧ t.out.ready = true ∧ t.out.resp = false ∧ t.blk.fifo.getLast? = some w ∧
    ∀ k u, 1 ≤ k → k ≤ j → s.after k = .next u → u.out.ready = false

/-- A stalled cycle puts the completion off by one. -/
theorem State.WriteCompletesIn.succ {w : Word} {j : Nat} {s u : State} (hs : step s = .next u)
    (hstall : u.out.ready = false) (h : u.WriteCompletesIn w j) : s.WriteCompletesIn w (j + 1) := by
  obtain ⟨t, ht, hready, hresp, hlast, hbefore⟩ := h
  refine ⟨t, (after_succ_of hs).trans ht, hready, hresp, hlast, fun k v hk hkj hv => ?_⟩
  obtain ⟨k, rfl⟩ := Nat.exists_eq_succ_of_ne_zero (by omega : k ≠ 0)
  rw [after_succ_of hs] at hv
  cases k with
  | zero => cases hv; exact hstall
  | succ k => exact hbefore (k + 1) v (by omega) (by omega) hv

/-! ## One cycle of the write -/

/-- With space in the queue the write completes in this cycle, whether the encoder pops or not. -/
theorem writeCompletesIn_zero {d n : Nat} {w : Word} {s : State} (hrun : s.Running d) (hw : s.KeepsWriting w n)
    (hspace : s.blk.fifo.length ≠ s.cfg.fifoDepth) : s.WriteCompletesIn w 0 := by
  obtain ⟨i, hi, hp⟩ := hw.presents hrun
  have hstep := step_of_presents hi hp (exec_wrTxfifo_of_space hrun.started hspace w)
  refine ⟨_, after_succ_of hstep, rfl, rfl, ?_, fun k u hk hk0 _ => by omega⟩
  rw [State.commit_blk, commit_fifo_of_append i (ws := [w]) rfl, List.getLast?_concat]

/-- With a full queue the cycle stalls; the encoder alone changes the queue. -/
theorem step_of_stalled {d n : Nat} {w : Word} {s : State} (hrun : s.Running d) (hw : s.KeepsWriting w n)
    (hfull : s.blk.fifo.length = s.cfg.fifoDepth) :
    ∃ i u, RunsCycle s i ∧ step s = .next u ∧ u.cfg = s.cfg ∧ u.out.ready = false ∧
      u.blk.enc = s.blk.nextEnc s.cfg ∧ u.blk.fifo = if s.blk.pops s.cfg then s.blk.fifo.tail else s.blk.fifo := by
  obtain ⟨i, hi, hp⟩ := hw.presents hrun
  have hstep := step_of_presents hi hp (exec_wrTxfifo_of_full hrun.started hfull w)
  exact ⟨i, _, hi, hstep, rfl, rfl, rfl, rfl⟩

/-- A cycle that takes no word from a non-empty queue is inside a unit: a tick counts one encoder cycle. -/
theorem ticksLeft_nextEnc {c : Config} {b : Block} (h : b.enc.UnitInRange c) (hq : b.fifo ≠ [])
    (hpop : ¬ b.pops c = true) :
    b.enc.ticksLeft c = (b.nextEnc c).ticksLeft c + if b.encTick then 1 else 0 := by
  cases htick : b.encTick with
  | false => simp [nextEnc_of_no_tick htick]
  | true =>
    cases he : b.enc.finishCycle c with
    | none => exact absurd (pops_iff.2 ⟨htick, he, hq⟩) hpop
    | some e => rw [nextEnc_inside_unit htick he, ticksLeft_of_finishCycle h he]; rfl

/-! ## The bound -/

/-- A write to the full queue completes within `n` cycles if the encoder cycles left fit into the accumulator and `n` cycles:
a stalled cycle without a pop shortens both sides by the same 256. -/
theorem writeCompletesIn_of_ticksLeft {d n : Nat} {w : Word} {s : State} (hrun : s.Running d)
    (hw : s.KeepsWriting w n) (hfull : s.blk.fifo.length = s.cfg.fifoDepth)
    (hleft : d * s.blk.enc.ticksLeft s.cfg ≤ s.blk.divAcc + 256 * n) : ∃ j, j ≤ n ∧ s.WriteCompletesIn w j := by
  induction n generalizing s with
  | zero =>
    have hlt := hrun.divAcc_lt
    have hpos := Nat.le_mul_of_pos_right d (ticksLeft_pos hrun.inv.encInRange.unitInRange)
    omega
  | succ n ih =>
    obtain ⟨i, u, hi, hs, hcfg, hready, henc, hfifo⟩ := step_of_stalled hrun hw hfull
    have hrun' := hrun.step hi hs
    obtain ⟨-, -, -, -, -, hdepth, -⟩ := problem_none hrun.inv.cfgOk
    by_cases hpop : s.blk.pops s.cfg = true
    · have hspace : u.blk.fifo.length ≠ u.cfg.fifoDepth := by
        rw [hfifo, if_pos hpop, List.length_tail, hcfg]
        omega
      exact ⟨1, by omega, .succ hs hready (writeCompletesIn_zero hrun' (hw.tail hs) hspace)⟩
    · have hq : s.blk.fifo ≠ [] := List.ne_nil_of_length_pos (by omega)
      have hticks := ticksLeft_nextEnc hrun.inv.encInRange.unitInRange hq hpop
      have hacc := hrun.divAcc_step hi hs
      rw [if_neg hpop] at hfifo
      rw [hticks, ← henc, ← hcfg, Nat.mul_add] at hleft
      obtain ⟨j, hj, hdone⟩ := ih hrun' (hw.tail hs) (by rw [hfifo, hcfg, hfull]) (by omega)
      exact ⟨j + 1, by omega, .succ hs hready hdone⟩

/-- Settles O39: the current unit has at most U encoder cycles left, and `ceil(U * Dfix / 256)` cycles hold as many ticks. The
rule's last cycle is not needed. -/
theorem stallIsBounded : Obligations.StallIsBounded := by
  unfold Obligations.StallIsBounded
  intro s w hinv hen hfull hw
  have hrun : s.Running s.blk.dfix := ⟨hinv, hen, rfl⟩
  have hunit : s.blk.dfix * s.blk.enc.ticksLeft s.cfg ≤ s.cfg.longestUnit * s.blk.dfix :=
    Nat.mul_comm s.cfg.longestUnit _ ▸ Nat.mul_le_mul_left _ (ticksLeft_le_longestUnit hinv.cfgOk hinv.encInRange)
  obtain ⟨j, hj, hdone⟩ := writeCompletesIn_of_ticksLeft (n := (s.cfg.longestUnit * s.blk.dfix + 255) / 256) hrun
    (State.KeepsWriting.mono hw (Nat.le_succ _)) hfull (by omega)
  exact ⟨j, by omega, hdone⟩

end Sys2Proof.Machine
end

section
/-! PROOFS. The PWM decoder (42_decoder.md R232 to R245): the synchronizers, and the two capture channels over one cycle and over
a run without a falling edge, whatever the transactions. -/

namespace Sys2Proof.Machine

/-! ## The reads -/

/-- R242 to R245: a 16-bit value is returned zero-extended. -/
theorem zext_toNat (v : Half) : (zext v).toNat = v.toNat :=
  BitVec.toNat_setWidth_of_le (by decide)

/-- Settles O24: each read returns its value zero-extended. -/
theorem widthAndCounterReadResults : Obligations.WidthAndCounterReadResults := by
  unfold Obligations.WidthAndCounterReadResults
  exact fun s => ⟨⟨_, rfl, zext_toNat _⟩, ⟨_, rfl, zext_toNat _⟩, ⟨_, rfl, zext_toNat _⟩, ⟨_, rfl, zext_toNat _⟩⟩

/-! ## The synchronizers (R232 to R234) -/

/-- A cycle without reset moves the sampled inputs one flop on, whatever the transaction. -/
theorem step_synchronizers {s t : State} {i : Inputs} (hi : s.stimulus = .cycle i) (hr : i.rst = false)
    (hs : step s = .next t) :
    t.blk.sync1 = inputPins i ∧ t.blk.sync2 = s.blk.sync1 ∧ t.blk.sprev = s.blk.sync2 := by
  obtain ⟨s1, -, -, rfl⟩ := runs_cases ⟨(step_cases hs).1, hi, hr⟩ hs
  exact ⟨rfl, rfl, rfl⟩

/-- The sampled inputs by the number of their channel (R34). -/
theorem inputPins_getLsbD_channel (i : Inputs) {c : Nat} (h : c < 3) :
    (inputPins i).getLsbD c = if c = 0 then i.steer else if c = 1 then i.thr else i.upd := by
  obtain ⟨hsteer, hthr, hupd⟩ := inputPins_getLsbD i
  obtain rfl | rfl | rfl : c = 0 ∨ c = 1 ∨ c = 2 := by omega
  · exact hsteer
  · exact hthr
  · exact hupd

/-- Settles O44: the three flops form a shift register, so after three cycles they hold the three samples. -/
theorem synchronizerLatency : Obligations.SynchronizerLatency := by
  unfold Obligations.SynchronizerLatency
  intro s t i0 i1 i2 h0 h1 h2 hr0 hr1 hr2 ht level c hc
  obtain ⟨u, hs0, hafter⟩ := after_succ ht
  obtain ⟨v, hs1, hafter⟩ := after_succ hafter
  obtain ⟨w, hs2, hafter⟩ := after_succ hafter
  cases hafter
  have hstim1 : u.stimulus = .cycle i1 := (stimulusAt_of_step hs0 0).trans h1
  have hstim2 : v.stimulus = .cycle i2 := (stimulusAt_of_step hs1 0).trans ((stimulusAt_of_step hs0 1).trans h2)
  obtain ⟨hu1, -, -⟩ := step_synchronizers h0 hr0 hs0
  obtain ⟨hv1, hv2, -⟩ := step_synchronizers hstim1 hr1 hs1
  obtain ⟨ht1, ht2, ht3⟩ := step_synchronizers hstim2 hr2 hs2
  have hsync1 : t.blk.sync1.getLsbD c = level i2 c := by rw [ht1, inputPins_getLsbD_channel i2 hc]
  have hsync2 : t.blk.sync2.getLsbD c = level i1 c := by rw [ht2, hv1, inputPins_getLsbD_channel i1 hc]
  have hsprev : t.blk.sprev.getLsbD c = level i0 c := by rw [ht3, hv2, hu1, inputPins_getLsbD_channel i0 hc]
  exact ⟨hsync1, hsync2, hsprev, by rw [falls_getLsbD _ hc, hsprev, hsync2]⟩

/-! ## One cycle of a capture channel (R235 to R237) -/

/-- The channels with a counter and a width, by number: 0 is steering, 1 is throttle (R59). -/
def Block.channel (b : Block) : Fin 2 → Capture
  | 0 => b.steer
  | 1 => b.thr

/-- A legal cycle has an end. -/
theorem step_exists {s : State} {i : Inputs} (hi : RunsCycle s i) : ∃ t, step s = .next t := by
  obtain ⟨s1, h1, -⟩ := hostTxn_effect i.port s
  exact ⟨_, by rw [step_of_runs hi, runCycle_of_host hi.noReset h1]⟩

/-- Whatever the transaction, a channel follows its falling edge, the capture tick and its level. -/
theorem step_channel {s t : State} {i : Inputs} (hi : RunsCycle s i) (hs : step s = .next t) (c : Fin 2) :
    t.blk.channel c = (s.blk.channel c).next (s.blk.captures c) (s.blk.counts s.cfg c) := by
  obtain ⟨s1, -, -, rfl⟩ := runs_cases hi hs
  match c with
  | 0 => rfl
  | 1 => rfl

/-- A host transaction sets no event bit (R155). -/
theorem HostEffect.event_of_event {s t : State} (h : HostEffect s t) {k : Nat} (hk : t.blk.events.getLsbD k = true) :
    s.blk.events.getLsbD k = true := by
  cases h with
  | events v =>
    rw [State.writeCompletes_blk, BitVec.getLsbD_and, Bool.and_eq_true] at hk
    exact hk.1
  | _ => exact hk

theorem eventsSet_getLsbD_channel (b : Block) (c : Fin 2) : b.eventsSet.getLsbD c = b.captures c := by
  obtain ⟨h0, h1, -⟩ := eventsSet_getLsbD b
  match c with
  | 0 => exact h0
  | 1 => exact h1

/-- A capture sets its event, over a clear by the host in the same cycle (R91, R236). -/
theorem step_event_of_capture {s t : State} {i : Inputs} (hi : RunsCycle s i) (hs : step s = .next t) {c : Fin 2}
    (hc : s.blk.captures c = true) : t.blk.events.getLsbD c = true := by
  obtain ⟨s1, -, -, rfl⟩ := runs_cases hi hs
  rw [State.commit_blk, commit_events_getLsbD, eventsSet_getLsbD_channel, hc, Bool.or_true]

/-- Without a capture no cycle sets a channel's event. -/
theorem event_of_step_event {s t : State} {i : Inputs} (hi : RunsCycle s i) (hs : step s = .next t) {c : Fin 2}
    (hc : s.blk.captures c = false) (hev : t.blk.events.getLsbD c = true) : s.blk.events.getLsbD c = true := by
  obtain ⟨s1, -, he, rfl⟩ := runs_cases hi hs
  rw [State.commit_blk, commit_events_getLsbD, eventsSet_getLsbD_channel, hc, Bool.or_false] at hev
  exact he.event_of_event hev

/-- A capture makes the count the width and starts the count again (R236). -/
theorem step_channel_of_capture {s t : State} {i : Inputs} (hi : RunsCycle s i) (hs : step s = .next t) {c : Fin 2}
    (hc : s.blk.captures c = true) : t.blk.channel c = { cnt := 0, width := (s.blk.channel c).cnt } := by
  rw [step_channel hi hs, hc, Capture.next_captures]

/-- Settles O45: with DEC_EN = 1 the falling edge is a capture; with DEC_EN = 0 a channel neither captures nor counts. -/
theorem captureCommits : Obligations.CaptureCommits := by
  unfold Obligations.CaptureCommits
  intro s i hi
  obtain ⟨t, hs⟩ := step_exists hi
  have captured (c : Fin 2) (hen : s.blk.decEn = true) (hprev : s.blk.sprev.getLsbD c = true)
      (hlow : s.blk.sync2.getLsbD c = false) :
      (t.blk.channel c).width = (s.blk.channel c).cnt ∧ (t.blk.channel c).cnt = 0 ∧ t.blk.events.getLsbD c = true := by
    have hcap : s.blk.captures c = true := by simp [captures_eq s.blk (c := c) (by omega), hen, hprev, hlow]
    rw [step_channel_of_capture hi hs hcap]
    exact ⟨rfl, rfl, step_event_of_capture hi hs hcap⟩
  have disabled (c : Fin 2) (hoff : s.blk.decEn = false) : t.blk.channel c = s.blk.channel c := by
    rw [step_channel hi hs, captures_off hoff, counts_off hoff, Capture.next_quiet]
  exact ⟨t, hs, captured 0, captured 1, fun hoff => ⟨disabled 0 hoff, disabled 1 hoff,
    event_of_step_event hi hs (c := 0) (captures_off hoff 0), event_of_step_event hi hs (c := 1) (captures_off hoff 1)⟩⟩

/-! ## A run without a falling edge (R235, R238, R239) -/

/-- The channel after `k` counted ticks; the counter wraps modulo 2^16 (R238). -/
def Capture.counted (p : Capture) (k : Nat) : Capture := { p with cnt := p.cnt + BitVec.ofNat 16 k }

theorem Capture.counted_zero (p : Capture) : p.counted 0 = p := by simp [Capture.counted]

theorem Capture.counted_counted (p : Capture) (j k : Nat) : (p.counted j).counted k = p.counted (j + k) := by
  simp [Capture.counted, BitVec.ofNat_add, BitVec.add_assoc]

theorem Capture.next_eq_counted (p : Capture) (counts : Bool) : p.next false counts = p.counted (if counts then 1 else 0) := by
  cases counts with
  | false => exact p.counted_zero.symm
  | true => rfl

theorem Capture.counted_width (p : Capture) (k : Nat) : (p.counted k).width = p.width := rfl

theorem Capture.counted_cnt_toNat (p : Capture) (k : Nat) : (p.counted k).cnt.toNat = (p.cnt.toNat + k) % 2 ^ 16 := by
  simp [Capture.counted]

/-- The cycle has a capture tick and a high synchronized level of channel `c` (R235). -/
def State.highTick (c : Nat) (s : State) : Bool := s.blk.capTick s.cfg && s.blk.sync2.getLsbD c

/-- While the decoder is enabled, a cycle without a falling edge counts its tick if the level is high. -/
theorem step_channel_of_no_fall {s t : State} {i : Inputs} (hi : RunsCycle s i) (hs : step s = .next t) {c : Fin 2}
    (hen : s.blk.decEn = true) (hf : s.blk.falls.getLsbD c = false) :
    t.blk.channel c = (s.blk.channel c).counted (if s.highTick c then 1 else 0) := by
  have hcap : s.blk.captures c = false := by rw [Block.captures, hf, Bool.and_false]
  have hcnt : s.blk.counts s.cfg c = s.highTick c := by simp [Block.counts, State.highTick, hen, hf]
  rw [step_channel hi hs, hcap, hcnt, Capture.next_eq_counted]

theorem Throughout.head {p : State → Prop} {n : Nat} {s : State} (h : Throughout p (n + 1) s) : p s :=
  h 0 n.succ_pos s rfl

theorem Throughout.tail {p : State → Prop} {n : Nat} {s u : State} (h : Throughout p (n + 1) s) (hu : step s = .next u) :
    Throughout p n u :=
  fun k hk v hv => h (k + 1) (Nat.succ_lt_succ hk) v ((after_succ_of hu).trans hv)

/-- Over a run without a falling edge an enabled channel counts the ticks with a high level. -/
theorem channel_after {n : Nat} {s t : State} {c : Fin 2} (hen : s.blk.decEn = true) (hu : Undisturbed n s)
    (ht : s.after n = .next t) (hf : Throughout (fun u => u.blk.falls.getLsbD c = false) n s) :
    t.blk.decEn = true ∧ t.blk.channel c = (s.blk.channel c).counted (countCycles (State.highTick c) n s) := by
  induction n generalizing s with
  | zero => cases ht; exact ⟨hen, (Capture.counted_zero _).symm⟩
  | succ n ih =>
    obtain ⟨u, hs, ht⟩ := after_succ ht
    obtain ⟨i, hi⟩ := hu.runs hs
    obtain ⟨hen', hrun⟩ := ih ((configurationKept_of_step hi hs).decEn hen) (hu.tail hs) ht (hf.tail hs)
    rw [hrun, step_channel_of_no_fall hi hs hen hf.head, Capture.counted_counted, countCycles_succ hs]
    exact ⟨hen', rfl⟩

/-- Settles O46: the run counts, and the falling edge after it is a capture. -/
theorem widthCountsHighTicks : Obligations.WidthCountsHighTicks := by
  unfold Obligations.WidthCountsHighTicks
  intro n s t hen hu ht
  have counted (c : Fin 2) (hf : Throughout (fun u => u.blk.falls.getLsbD c = false) n s) :
      (t.blk.channel c).width = (s.blk.channel c).width ∧
      (t.blk.channel c).cnt.toNat = ((s.blk.channel c).cnt.toNat + countCycles (State.highTick c) n s) % 2 ^ 16 ∧
      ∀ i u, RunsCycle t i → t.blk.falls.getLsbD c = true → step t = .next u →
        (u.blk.channel c).width = (t.blk.channel c).cnt := by
    obtain ⟨hen', hrun⟩ := channel_after hen hu ht hf
    refine ⟨by rw [hrun, Capture.counted_width], by rw [hrun, Capture.counted_cnt_toNat], fun i u hi hfall hs => ?_⟩
    have hcap : t.blk.captures c = true := by rw [Block.captures, hen', hfall, Bool.and_self]
    rw [step_channel_of_capture hi hs hcap]
  exact ⟨counted 0, counted 1⟩

end Sys2Proof.Machine
end

section
/-! PROOFS. The freshness watchdog's reads and its comparator (43_watchdog.md R264, R270 to R277): the two 64-bit registers are
read in two halves, and the high half waits in a latch that only the next read of the low half replaces. -/

namespace Sys2Proof.Machine

/-! ## The comparator (R264) -/

/-- Settles O36: the difference of two 64-bit values, taken modulo 2^64. -/
theorem expiredComparator : Obligations.ExpiredComparator := by
  unfold Obligations.ExpiredComparator
  intro c b
  have hdiff : (b.time - b.last).toNat = (b.time.toNat + 2 ^ 64 - b.last.toNat) % 2 ^ 64 := by
    have hlast := b.last.isLt
    rw [BitVec.toNat_sub]
    omega
  have hthr : c.wdtThreshold = 100 * c.sysClkHz / (1000 * c.timeDiv) := rfl
  simp only [Block.expired, Bool.or_eq_true, Bool.not_eq_true', decide_eq_true_eq, hdiff, hthr, or_assoc]

/-- Settles O27: the value of WDT, bit by bit. -/
theorem freshnessReadResult : Obligations.FreshnessReadResult := by
  unfold Obligations.FreshnessReadResult
  intro s
  refine ⟨s.blk.wdtValue s.cfg, rfl, ?_⟩
  simp (disch := omega) only [Block.wdtValue, getLsbD_setWidth_of_le, getLsbD_append_low, getLsbD_append_high,
    BitVec.getLsbD_ofBool, Nat.reduceSub, decide_true, Bool.true_and, true_and]
  intro k hk
  simp (disch := omega) only [getLsbD_append_high, BitVec.getLsbD_zero]

/-! ## The two halves of a 64-bit value -/

theorem highWord_append_lowWord (v : Stamp) : highWord v ++ lowWord v = v := by
  rw [highWord, lowWord, BitVec.extractLsb'_append_extractLsb'_eq_extractLsb' (show 32 = 0 + 32 from rfl)]
  exact BitVec.extractLsb'_eq_self

theorem highWord_lowWord_toNat (v : Stamp) : (highWord v).toNat * 2 ^ 32 + (lowWord v).toNat = v.toNat := by
  rw [← toNat_append_eq_add, highWord_append_lowWord]

/-- Settles O25: each LO read splits one 64-bit value into the data and the latch. -/
theorem timeAndTimestampReadResults : Obligations.TimeAndTimestampReadResults := by
  unfold Obligations.TimeAndTimestampReadResults
  exact fun s => ⟨⟨_, _, rfl, highWord_lowWord_toNat _⟩, rfl, ⟨_, _, rfl, highWord_lowWord_toNat _⟩, rfl⟩

/-! ## A 64-bit register, its latch and its two reads (R60, R270 to R273) -/

/-- The two registers that are read in halves. The functions below name the parts of the model that belong to each. -/
inductive WideReg where
  | time
  | last

def WideReg.value : WideReg → Block → Stamp
  | .time, b => b.time
  | .last, b => b.last

def WideReg.latch : WideReg → Block → Word
  | .time, b => b.timeHiLatch
  | .last, b => b.lastHiLatch

def WideReg.readLo : WideReg → Instr
  | .time => .rdTimeLo
  | .last => .rdLastLo

def WideReg.readHi : WideReg → Instr
  | .time => .rdTimeHi
  | .last => .rdLastHi

/-- The hardware functions write no latch (R91). -/
@[simp] theorem WideReg.latch_commit (r : WideReg) (c : Config) (i : Inputs) (b h : Block) :
    r.latch (b.commit c i h) = r.latch h := by
  cases r <;> rfl

theorem exec_readLo (r : WideReg) (s : State) :
    ∃ s1, exec r.readLo s = .next s1 ∧ s1.out.rdata = lowWord (r.value s.blk) ∧
      r.latch s1.blk = highWord (r.value s.blk) := by
  cases r <;> exact ⟨_, rfl, rfl, rfl⟩

theorem exec_readHi (r : WideReg) (s : State) :
    ∃ s1, exec r.readHi s = .next s1 ∧ s1.out.rdata = r.latch s.blk := by
  cases r <;> exact ⟨_, rfl, rfl⟩

/-- Only the read of the low half writes a register's latch (R270, R272). The writes that can be refused or stalled have
several ways to end, and none of them touches a latch. -/
theorem exec_latch_of_ne {r : WideReg} {ins : Instr} (h : ins ≠ r.readLo) (s : State) :
    ∃ s1, exec ins s = .next s1 ∧ r.latch s1.blk = r.latch s.blk := by
  cases ins with
  | rdTimeLo =>
    cases r with
    | time => exact absurd rfl h
    | last => exact ⟨_, rfl, rfl⟩
  | rdLastLo =>
    cases r with
    | time => exact ⟨_, rfl, rfl⟩
    | last => exact absurd rfl h
  | wrCtrl v =>
    simp only [exec, execWrCtrl]
    split <;> exact ⟨_, rfl, by cases r <;> rfl⟩
  | wrClkdiv v =>
    simp only [exec, execWrClkdiv]
    split <;> exact ⟨_, rfl, by cases r <;> rfl⟩
  | wrTxfifo w =>
    simp only [exec, execWrTxfifo]
    repeat' split
    all_goals exact ⟨_, rfl, by cases r <;> rfl⟩
  | _ => exact ⟨_, rfl, by cases r <;> rfl⟩

/-- A cycle's port leaves a register's latch as it is, unless it presents the read of the low half. -/
theorem hostTxn_latch_of_not_presents {r : WideReg} {i : Inputs} (h : ¬ Presents i r.readLo) (s : State) :
    ∃ s1, hostTxn i.port s = .next s1 ∧ r.latch s1.blk = r.latch s.blk := by
  cases hsel : i.port.sel with
  | false => exact ⟨_, hostTxn_of_not_sel hsel s, by cases r <;> rfl⟩
  | true =>
    cases hdec : decode i.port.word with
    | error c => exact ⟨_, hostTxn_of_decode_error hsel hdec s, by cases r <;> rfl⟩
    | ok ins =>
      have hne : ins ≠ r.readLo := fun heq => h ⟨hsel, heq ▸ hdec⟩
      rw [hostTxn_of_presents ⟨hsel, hdec⟩]
      exact exec_latch_of_ne hne s

theorem step_latch_of_not_presents {r : WideReg} {s t : State} {i : Inputs} (hi : RunsCycle s i) (hs : step s = .next t)
    (h : ¬ Presents i r.readLo) : r.latch t.blk = r.latch s.blk := by
  obtain ⟨s1, h1, hlatch⟩ := hostTxn_latch_of_not_presents h s
  rw [step_of_runs hi, runCycle_of_host hi.noReset h1] at hs
  cases hs
  rw [State.commit_blk, WideReg.latch_commit, hlatch]

/-- What every cycle keeps that starts where `Q` holds is kept along a run on which `Q` holds throughout. -/
theorem after_keeps_throughout {P Q : State → Prop}
    (hstep : ∀ s t i, P s → Q s → RunsCycle s i → step s = .next t → P t)
    {n : Nat} {s t : State} (hu : Undisturbed n s) (hq : Throughout Q n s) (ht : s.after n = .next t) (h0 : P s) : P t := by
  induction n generalizing s with
  | zero => cases ht; exact h0
  | succ n ih =>
    obtain ⟨u, hs, ht⟩ := after_succ ht
    obtain ⟨i, hi⟩ := hu.runs hs
    exact ih (hu.tail hs) (hq.tail hs) ht (hstep s u i h0 hq.head hi hs)

/-- The next cycle does not present the transaction `ins`. -/
def State.DoesNotPresent (ins : Instr) (s : State) : Prop := ∀ x, s.stimulus = .cycle x → ¬ Presents x ins

theorem throughout_doesNotPresent {ins : Instr} {n : Nat} {s : State}
    (h : ∀ k x, k < n → s.stimulusAt k = .cycle x → ¬ Presents x ins) : Throughout (State.DoesNotPresent ins) n s :=
  fun k hk _ hu x hx => h k x hk ((stimulusAt_of_after hu 0).symm.trans hx)

/-- A LO read and the next HI read give one value, whatever other transactions lie between them (R275). -/
theorem readHi_append_readLo (r : WideReg) {s s1 s2 s3 : State} {n : Nat} {i j : Inputs} (hi : RunsCycle s i)
    (hs : step s = .next s1) (hu : Undisturbed n s1) (hn : s1.after n = .next s2) (hj : RunsCycle s2 j)
    (hs2 : step s2 = .next s3) (hlo : Presents i r.readLo) (hhi : Presents j r.readHi)
    (hno : ∀ k x, k < n → s1.stimulusAt k = .cycle x → ¬ Presents x r.readLo) :
    s3.out.rdata ++ s1.out.rdata = r.value s.blk := by
  obtain ⟨u, hexec, hlow, hlatched⟩ := exec_readLo r s
  obtain rfl := Host.Outcome.next.inj ((step_of_presents hi hlo hexec).symm.trans hs)
  obtain ⟨v, hexec2, hhigh⟩ := exec_readHi r s2
  obtain rfl := Host.Outcome.next.inj ((step_of_presents hj hhi hexec2).symm.trans hs2)
  have hkept : r.latch s2.blk = highWord (r.value s.blk) :=
    after_keeps_throughout (P := fun w => r.latch w.blk = highWord (r.value s.blk))
      (fun _ _ _ hw hq hrun hstep => (step_latch_of_not_presents hrun hstep (hq _ hrun.stimulus)).trans hw)
      hu (throughout_doesNotPresent hno) hn (by rw [State.commit_blk, WideReg.latch_commit, hlatched])
  rw [State.commit_out, State.commit_out, hlow, hhigh, hkept, highWord_append_lowWord]

/-- Settles O50: the two registers are the two cases of `readHi_append_readLo`. -/
theorem sixtyFourBitReadPairs : Obligations.SixtyFourBitReadPairs := by
  unfold Obligations.SixtyFourBitReadPairs
  intro s s1 s2 s3 n i j hi hs hu hn hj hs2
  exact ⟨readHi_append_readLo .time hi hs hu hn hj hs2, readHi_append_readLo .last hi hs hu hn hj hs2⟩

end Sys2Proof.Machine
end

section
/-! PROOFS. The time base and the update timestamp along a run (43_watchdog.md R260 to R268, R276): the prescalers count every
cycle, and a recorded edge is compared with the time that has passed since. -/

namespace Sys2Proof.Machine

/-! ## The prescalers and the time base (R231, R260, R261) -/

/-- What every cycle advances by one is advanced by `n` along a run of `n` cycles. -/
theorem after_counts {P : Nat → State → Prop}
    (hstep : ∀ m s t i, P m s → RunsCycle s i → step s = .next t → P (m + 1) t)
    {m n : Nat} {s t : State} (hu : Undisturbed n s) (ht : s.after n = .next t) (h0 : P m s) : P (m + n) t := by
  induction n generalizing m s with
  | zero => cases ht; exact h0
  | succ n ih =>
    obtain ⟨u, hs, ht⟩ := after_succ ht
    obtain ⟨i, hi⟩ := hu.runs hs
    rw [Nat.add_comm n 1, ← Nat.add_assoc]
    exact ih (hu.tail hs) ht (hstep m s u i h0 hi hs)

/-- A cycle without reset advances the prescalers and the time base, whatever the transaction. -/
theorem step_prescalers {s t : State} {i : Inputs} (hi : RunsCycle s i) (hs : step s = .next t) :
    t.blk.capPre = s.blk.nextCapPre s.cfg ∧ t.blk.timePre = s.blk.nextTimePre s.cfg ∧ t.blk.time = s.blk.nextTime s.cfg := by
  obtain ⟨s1, -, -, rfl⟩ := runs_cases hi hs
  exact ⟨rfl, rfl, rfl⟩

/-- A prescaler by `d` that stands at `m mod d` stands at `m + 1 mod d` one cycle later. -/
theorem prescaler_succ {d : Nat} (hd : 0 < d) (m : Nat) :
    (if m % d = d - 1 then 0 else m % d + 1) = (m + 1) % d := by
  have hlt := Nat.mod_lt m hd
  split
  next hlast => exact (div_mod_succ_of_not_lt hd (by omega)).2.symm
  next hmid => exact (div_mod_succ_of_lt (by omega)).2.symm

/-- The time base of `s`, `m` cycles after it stood at `v` with the prescaler at 0. -/
structure State.TimeAt (v : Stamp) (m : Nat) (s : State) : Prop where
  timePre : s.blk.timePre = m % s.cfg.timeDiv
  time : s.blk.time = v + BitVec.ofNat 64 (m / s.cfg.timeDiv)

theorem State.TimeAt.step {v : Stamp} {m : Nat} {s t : State} {i : Inputs} (h : s.TimeAt v m) (hi : RunsCycle s i)
    (hs : Machine.step s = .next t) : t.TimeAt v (m + 1) := by
  obtain ⟨-, hpre, htime⟩ := step_prescalers hi hs
  obtain ⟨-, -, -, -, -, -, -, -, -, -, hdiv, -⟩ := problem_none hi.cfgOk
  have hlt := Nat.mod_lt m hdiv
  refine ⟨?_, ?_⟩ <;> rw [(step_environment hs).1]
  · simp only [hpre, Block.nextTimePre, Block.timeTick, h.timePre, beq_iff_eq, prescaler_succ hdiv]
  · simp only [htime, Block.nextTime, Block.timeTick, h.timePre, h.time, beq_iff_eq]
    split
    next hlast =>
      rw [(div_mod_succ_of_not_lt hdiv (by omega)).1, BitVec.ofNat_add, BitVec.add_assoc]
      rfl
    next hmid => rw [(div_mod_succ_of_lt (by omega)).1]

theorem State.timeAt_self {s : State} (h : s.blk.timePre < s.cfg.timeDiv) : s.TimeAt s.blk.time s.blk.timePre :=
  ⟨(Nat.mod_eq_of_lt h).symm, by simp [Nat.div_eq_of_lt h]⟩

theorem capPre_step {m : Nat} {s t : State} {i : Inputs} (h : s.blk.capPre = m % s.cfg.capDiv) (hi : RunsCycle s i)
    (hs : step s = .next t) : t.blk.capPre = (m + 1) % t.cfg.capDiv := by
  obtain ⟨hpre, -, -⟩ := step_prescalers hi hs
  obtain ⟨-, -, -, -, -, -, -, -, -, hdiv, -, -⟩ := problem_none hi.cfgOk
  rw [(step_environment hs).1]
  simp only [hpre, Block.nextCapPre, Block.capTick, h, beq_iff_eq, prescaler_succ hdiv]

/-- Settles O47: the start state stands at its own prescalers, and every cycle advances both counts by one. -/
theorem timeBaseCountsTicks : Obligations.TimeBaseCountsTicks := by
  unfold Obligations.TimeBaseCountsTicks
  intro n s t hu ht
  have hcfg : t.cfg = s.cfg := cfg_of_after ht
  refine ⟨fun hpre => ?_, fun hpre => ?_⟩
  · have hend : t.TimeAt s.blk.time (s.blk.timePre + n) :=
      after_counts (P := fun m u => u.TimeAt s.blk.time m) (fun _ _ _ _ h => h.step) hu ht (State.timeAt_self hpre)
    refine ⟨hcfg ▸ hend.timePre, ?_⟩
    rw [hend.time, hcfg, BitVec.toNat_add, BitVec.toNat_ofNat, Nat.add_mod_mod]
  · have hend : t.blk.capPre = (s.blk.capPre + n) % t.cfg.capDiv :=
      after_counts (P := fun m u => u.blk.capPre = m % u.cfg.capDiv) (fun _ _ _ _ h => capPre_step h) hu ht
        (Nat.mod_eq_of_lt hpre).symm
    rw [hcfg] at hend
    exact ⟨hend, by rw [Block.capTick, beq_iff_eq, hend, hcfg]⟩

/-! ## The update timestamp (R263, R276) -/

/-- Whatever the transaction, the timestamp follows the recorded edges. -/
theorem step_timestamp {s t : State} {i : Inputs} (hi : RunsCycle s i) (hs : step s = .next t) :
    t.blk.last = s.blk.nextLast ∧ t.blk.lastValid = (s.blk.lastValid || s.blk.recordsUpdate) := by
  obtain ⟨s1, -, -, rfl⟩ := runs_cases hi hs
  exact ⟨rfl, rfl⟩

/-- EV_UPD after a cycle: what the host left of it, and the recording (R91, R263). -/
theorem commit_updateEvent (c : Config) (i : Inputs) (b h : Block) :
    (b.commit c i h).events.getLsbD 2 = (h.events.getLsbD 2 || b.recordsUpdate) := by
  obtain ⟨-, -, hset⟩ := eventsSet_getLsbD b
  rw [commit_events_getLsbD, hset]

/-- A recorded edge sets EV_UPD, over a clear by the host in the same cycle (R91, R263). -/
theorem step_event_of_recordsUpdate {s t : State} {i : Inputs} (hi : RunsCycle s i) (hs : step s = .next t)
    (hr : s.blk.recordsUpdate = true) : t.blk.events.getLsbD 2 = true := by
  obtain ⟨s1, -, -, rfl⟩ := runs_cases hi hs
  rw [State.commit_blk, commit_updateEvent, hr, Bool.or_true]

/-- Without a recorded edge no cycle sets EV_UPD. -/
theorem event_of_step_of_not_recordsUpdate {s t : State} {i : Inputs} (hi : RunsCycle s i) (hs : step s = .next t)
    (hr : s.blk.recordsUpdate = false) (hev : t.blk.events.getLsbD 2 = true) : s.blk.events.getLsbD 2 = true := by
  obtain ⟨s1, -, he, rfl⟩ := runs_cases hi hs
  rw [State.commit_blk, commit_updateEvent, hr, Bool.or_false] at hev
  exact he.event_of_event hev

/-- Without a recorded edge the timestamp stays (R263, R276). -/
theorem step_timestamp_of_not_recordsUpdate {s t : State} {i : Inputs} (hi : RunsCycle s i) (hs : step s = .next t)
    (hr : s.blk.recordsUpdate = false) : t.blk.last = s.blk.last ∧ t.blk.lastValid = s.blk.lastValid := by
  obtain ⟨hlast, hvalid⟩ := step_timestamp hi hs
  exact ⟨hlast.trans (nextLast_of_not_records hr), by rw [hvalid, hr, Bool.or_false]⟩

/-- Settles O48: the edge is recorded exactly when all three conditions hold. -/
theorem updateEdgeRecorded : Obligations.UpdateEdgeRecorded := by
  unfold Obligations.UpdateEdgeRecorded
  intro s i hi
  obtain ⟨t, hs⟩ := step_exists hi
  refine ⟨t, hs, fun hen hprev hlow => ?_, fun hno => ?_⟩
  · have hr : s.blk.recordsUpdate = true := by
      simp only [recordsUpdate_eq, hen, hprev, hlow, Bool.not_false, Bool.and_self]
    obtain ⟨hlast, hvalid⟩ := step_timestamp hi hs
    exact ⟨by rw [hlast, Block.nextLast, if_pos hr], by rw [hvalid, hr, Bool.or_true], step_event_of_recordsUpdate hi hs hr⟩
  · have hr : s.blk.recordsUpdate = false := by
      rw [recordsUpdate_eq]
      rcases hno with hoff | hprev | hhigh
      · rw [hoff, Bool.false_and, Bool.false_and]
      · rw [hprev, Bool.and_false, Bool.false_and]
      · rw [hhigh, Bool.not_true, Bool.and_false]
    obtain ⟨hlast, hvalid⟩ := step_timestamp_of_not_recordsUpdate hi hs hr
    exact ⟨hlast, hvalid, event_of_step_of_not_recordsUpdate hi hs hr⟩

/-! ## The expiry along a run (R264, R265, R268) -/

/-- A run without an update edge keeps the timestamp. -/
theorem timestamp_after {n : Nat} {s t : State} (hu : Undisturbed n s) (ht : s.after n = .next t)
    (hf : Throughout (fun u => u.blk.falls.getLsbD 2 = false) n s) :
    t.blk.last = s.blk.last ∧ t.blk.lastValid = s.blk.lastValid :=
  after_keeps_throughout (P := fun u => u.blk.last = s.blk.last ∧ u.blk.lastValid = s.blk.lastValid)
    (fun u _ _ ⟨hlast, hvalid⟩ hfall hi hs =>
      have hr : u.blk.recordsUpdate = false := by rw [Block.recordsUpdate, hfall, Bool.and_false]
      have ⟨hlast', hvalid'⟩ := step_timestamp_of_not_recordsUpdate hi hs hr
      ⟨hlast'.trans hlast, hvalid'.trans hvalid⟩)
    hu hf ht ⟨rfl, rfl⟩

/-- Once an edge is recorded, and unless time has wrapped below it, the answer is "not expired" up to the threshold (R264). -/
theorem expired_eq_false_iff {c : Config} {b : Block} (hen : b.wdtEn = true) (hvalid : b.lastValid = true)
    (hle : b.last.toNat ≤ b.time.toNat) :
    b.expired c = false ↔ b.time.toNat ≤ b.last.toNat + 100 * c.sysClkHz / (1000 * c.timeDiv) := by
  have htime := b.time.isLt
  have hdiff : (b.time.toNat + 2 ^ 64 - b.last.toNat) % 2 ^ 64 = b.time.toNat - b.last.toNat := by omega
  rw [← Bool.not_eq_true, expiredComparator c b, hen, hvalid, hdiff]
  simp only [Bool.true_eq_false, false_or, not_lt]
  omega

/-- Settles O49: the timestamp and the enable are kept along the run, so the comparator asks for the distance alone. -/
theorem expiryBoundary : Obligations.ExpiryBoundary := by
  unfold Obligations.ExpiryBoundary
  intro n s t hen hvalid hu ht hf
  obtain ⟨hlast, hvalid'⟩ := timestamp_after hu ht hf
  have hen' : t.blk.wdtEn = true :=
    after_keeps (P := fun u => u.blk.wdtEn = true) (fun _ _ _ h hi hs => (configurationKept_of_step hi hs).wdtEn h) hu ht hen
  refine ⟨hlast, fun hle => ?_⟩
  rw [← hlast] at hle ⊢
  rw [expired_eq_false_iff hen' (hvalid'.trans hvalid) hle, cfg_of_after ht]

end Sys2Proof.Machine
end

section
/-! PROOFS. One line of a host program that presents a transaction (30_encoding.md R128, 20_memory.md R95): the cycle that the
program runs is a step of the block with the line's transaction on the port; a completed line is left, a stalled one is
presented again. -/

namespace Sys2Proof.Machine

/-! ## The cycle -/

/-- The state that a program steps: `s` with the inputs `i` listed for the next cycle. `stepWith_eq` ties it to the model. -/
def State.driven (i : Inputs) (s : State) : State := { s with inputs := [.cycle i] }

@[simp] theorem State.driven_cfg (i : Inputs) (s : State) : (s.driven i).cfg = s.cfg := rfl
@[simp] theorem State.driven_blk (i : Inputs) (s : State) : (s.driven i).blk = s.blk := rfl

theorem stepWith_eq (i : Inputs) (s : State) : s.stepWith i = step (s.driven i) := rfl

/-- The invariant does not speak of the inputs. -/
theorem State.Running.driven {d : Nat} {s : State} (h : s.Running d) (i : Inputs) : (s.driven i).Running d :=
  ⟨{ h.inv with }, h.started, h.dfix⟩

/-- A program has no reset cycle (R128). -/
theorem runsCycle_driven {s : State} (hc : s.cfg.problem = none) (l : Levels) (p : PortIn) :
    RunsCycle (s.driven (l.inputs p)) (l.inputs p) :=
  ⟨hc, rfl, rfl⟩

/-- The inputs of the cycle in which a program presents `ins`. -/
def Levels.presenting (l : Levels) (ins : Instr) : Inputs := l.inputs (PortIn.ofWord (encode ins))

/-- An encoded transaction on the port decodes to that transaction. -/
theorem presents_presenting (l : Levels) (ins : Instr) : Presents (l.presenting ins) ins :=
  ⟨rfl, by rw [Levels.presenting, Levels.inputs, PortIn.ofWord_word, decodeOfEncode]⟩

/-- The cycle of a line is the meaning of its transaction, with the hardware committed over it (R90). -/
theorem stepWith_of_exec {s s1 : State} (hc : s.cfg.problem = none) (l : Levels) {ins : Instr}
    (h : exec ins (s.driven (l.presenting ins)) = .next s1) :
    s.stepWith (l.presenting ins) = .next ((s.driven (l.presenting ins)).commit (l.presenting ins) s1) :=
  step_of_presents (runsCycle_driven hc l _) (presents_presenting l ins) h

/-! ## The line -/

@[simp] theorem runProgram_nil (fuel : Nat) (l : Levels) (s : State) : runProgram fuel l [] s = some (s, []) := by
  cases fuel <;> rfl

/-- A completed line adds its response to the log, and the program goes on. -/
theorem runProgram_lineOf_of_ready {fuel : Nat} {l : Levels} {ins : Instr} {rest : List Line} {s u : State}
    (hs : s.stepWith (l.presenting ins) = .next u) (hready : u.out.ready = true) :
    runProgram (fuel + 1) l (lineOf ins :: rest) s = (runProgram fuel l rest u).map fun p => (p.1, u.out :: p.2) := by
  rw [Levels.presenting] at hs
  simp [lineOf, runProgram, hs, hready]

/-- A stalled line is presented again (R95). -/
theorem runProgram_lineOf_of_stalled {fuel : Nat} {l : Levels} {ins : Instr} {rest : List Line} {s u : State}
    (hs : s.stepWith (l.presenting ins) = .next u) (hready : u.out.ready = false) :
    runProgram (fuel + 1) l (lineOf ins :: rest) s = runProgram fuel l (lineOf ins :: rest) u := by
  rw [Levels.presenting] at hs
  simp [lineOf, runProgram, hs, hready]

end Sys2Proof.Machine
end

section
/-! PROOFS. Writing words to the queue by a program (44_host_protocol.md R292, R297): each word goes behind what the encoder has
left of the queue, and the encoder takes words from the front only, so a run of writes leaves an end of the old queue with the
words behind it. -/

namespace Sys2Proof.Machine

/-- One cycle of a program that presents WR TXFIFO of `w` to the running encoder, by R190: the encoder leaves an end `q` of the
queue, and the write stalls or completes. -/
theorem stepWith_wrTxfifo {d : Nat} {s : State} (hrun : s.Running d) (l : Levels) (w : Word) :
    ∃ u q, s.stepWith (l.presenting (.wrTxfifo w)) = .next u ∧ u.Running d ∧ q <:+ s.blk.fifo ∧
      (u.out.ready = false ∧ u.blk.fifo = q ∨ u.out = PortOut.okay ∧ u.blk.fifo = q ++ [w]) := by
  have hrun' := hrun.driven (l.presenting (.wrTxfifo w))
  have hkeeps {u : State} (hu : s.stepWith (l.presenting (.wrTxfifo w)) = .next u) : u.Running d :=
    hrun'.step (runsCycle_driven hrun.inv.cfgOk l _) hu
  have hleft : (if s.blk.pops s.cfg then s.blk.fifo.tail else s.blk.fifo) <:+ s.blk.fifo := by
    split
    · exact List.tail_suffix _
    · exact List.suffix_rfl
  by_cases hfull : s.blk.fifo.length = s.cfg.fifoDepth
  · have hstep := stepWith_of_exec hrun.inv.cfgOk l (exec_wrTxfifo_of_full hrun'.started hfull w)
    exact ⟨_, _, hstep, hkeeps hstep, hleft, .inl ⟨rfl, rfl⟩⟩
  · have hstep := stepWith_of_exec hrun.inv.cfgOk l (exec_wrTxfifo_of_space hrun'.started hfull w)
    exact ⟨_, _, hstep, hkeeps hstep, hleft, .inr ⟨rfl, commit_fifo_of_append _ rfl⟩⟩

/-- A finished run of TXFIFO writes to the running encoder: every write completes with OKAY, and the queue is an end of the old
queue with the words appended. -/
theorem runProgram_pushLines {d fuel : Nat} {l : Levels} {ws : List Word} {s t : State} {log : List PortOut}
    (hrun : s.Running d) (h : runProgram fuel l (pushLines ws) s = some (t, log)) :
    log = List.replicate ws.length PortOut.okay ∧ t.blk.fifo <:+ s.blk.fifo ++ ws := by
  induction fuel generalizing s ws log with
  | zero =>
    cases ws with
    | nil => cases h; simp
    | cons w ws => cases h
  | succ fuel ih =>
    cases ws with
    | nil => cases h; simp
    | cons w ws =>
      obtain ⟨u, q, hs, hrun', hq, ⟨hready, hfifo⟩ | ⟨hout, hfifo⟩⟩ := stepWith_wrTxfifo hrun l w
      · have hagain : runProgram fuel l (pushLines (w :: ws)) u = some (t, log) :=
          (runProgram_lineOf_of_stalled hs hready).symm.trans h
        obtain ⟨hlog, hend⟩ := ih hrun' hagain
        exact ⟨hlog, hend.trans (by rw [hfifo]; exact List.suffix_append_self_iff.2 hq)⟩
      · have hline := (runProgram_lineOf_of_ready (fuel := fuel) (rest := pushLines ws) hs (by rw [hout]; rfl)).symm.trans h
        obtain ⟨⟨v, log'⟩, hrest, hp⟩ := Option.map_eq_some_iff.1 hline
        cases hp
        obtain ⟨rfl, hend⟩ := ih hrun' hrest
        rw [hfifo, List.append_assoc] at hend
        exact ⟨by rw [hout]; rfl, hend.trans (List.suffix_append_self_iff.2 hq)⟩

/-- Settles O58: the frame is seven TXFIFO writes, and an end of a list is the list without its first words. -/
theorem frameWriteEnqueuesSevenWords : Obligations.FrameWriteEnqueuesSevenWords := by
  unfold Obligations.FrameWriteEnqueuesSevenWords
  intro fuel l tm fl fr rr rl s t log hinv hen h
  have hrun : s.Running s.blk.dfix := ⟨hinv, hen, rfl⟩
  obtain ⟨hlog, hend⟩ := runProgram_pushLines hrun h
  exact ⟨hlog, _, (Nat.sub_le _ _).trans_eq List.length_append, List.suffix_iff_eq_drop.1 hend⟩

end Sys2Proof.Machine
end

section
/-! PROOFS. What the host prepares for the block (44_host_protocol.md): the startup sequence (R295), the divisor (R294) and the
ColorWords (R290). -/

namespace Sys2Proof.Machine

/-! ## The startup sequence (R295) -/

/-- The first line of `START d` right after reset: the encoder is stopped, so the divisor is taken (R186). -/
theorem stepWith_wrClkdiv_resetWith {c : Config} (hc : c.problem = none) (l : Levels) (d : Word) :
    ∃ u, (State.resetWith c).stepWith (l.presenting (.wrClkdiv d)) = .next u ∧ u.out = PortOut.okay ∧ u.cfg = c ∧
      u.blk.clkInt = clkdivInt d ∧ u.blk.clkFrac = clkdivFrac d ∧ u.blk.encEn = false ∧ u.blk.cfgErr = false ∧
      u.blk.busErr = BusErr.clear :=
  ⟨_, stepWith_of_exec hc l (exec_wrClkdiv_of_stopped rfl d), rfl, rfl, rfl, rfl, rfl, rfl, rfl⟩

/-- A start request to a stopped encoder without `cfg_err` is refused exactly for INT = 0 (R151). -/
theorem startRefused_one_iff {b : Block} (hstopped : b.encEn = false) (herr : b.cfgErr = false) :
    startRefused 1 b = true ↔ b.clkInt.toNat = 0 := by
  simp [startRefused_iff, hstopped, herr]

/-- The second line of `START d`, which is a start request: it starts the encoder, or it is refused for INT = 0 (R151). -/
theorem stepWith_start {s : State} (hc : s.cfg.problem = none) (hstopped : s.blk.encEn = false)
    (herr : s.blk.cfgErr = false) (hrec : s.blk.busErr = BusErr.clear) (l : Levels) :
    ∃ t, s.stepWith (l.presenting (.wrCtrl 1)) = .next t ∧ t.out.ready = true ∧
      t.blk.clkInt = s.blk.clkInt ∧ t.blk.clkFrac = s.blk.clkFrac ∧
      (s.blk.clkInt.toNat ≠ 0 → t.out = PortOut.okay ∧ t.blk.encEn = true ∧ t.blk.cfgErr = false) ∧
      (s.blk.clkInt.toNat = 0 →
        t.out.resp = true ∧ t.blk.encEn = false ∧ t.blk.cfgErr = true ∧ t.blk.busErr.cause = some .config) := by
  by_cases hint : s.blk.clkInt.toNat = 0
  · have hstep := stepWith_of_exec hc l (exec_wrCtrl_of_refused ((startRefused_one_iff hstopped herr).2 hint))
    refine ⟨_, hstep, rfl, rfl, rfl, fun hne => absurd hint hne, fun _ => ?_⟩
    simp [hstopped, hrec, BusErr.clear]
  · have hstep := stepWith_of_exec hc l (exec_wrCtrl_of_accepted (mt (startRefused_one_iff hstopped herr).1 hint))
    refine ⟨_, hstep, rfl, rfl, rfl, fun _ => ?_, fun h0 => absurd h0 hint⟩
    simp [herr, ctrlEncReq]

/-- Settles O57: the program is the two lines, each of which completes in one cycle, and INT is `d / 65536`. -/
theorem startSequence : Obligations.StartSequence := by
  unfold Obligations.StartSequence
  intro c d tm hc
  obtain ⟨u, hfirst, hout, hcfg, hint, hfrac, hstopped, herr, hrec⟩ := stepWith_wrClkdiv_resetWith hc Levels.low d
  obtain ⟨t, hsecond, hready, hintKept, hfracKept, hstarted, hrefused⟩ :=
    stepWith_start (hcfg.symm ▸ hc) hstopped herr hrec Levels.low
  rw [hint, clkdivInt_toNat] at hstarted hrefused
  refine ⟨t, t.out, ?_, ?_, ?_, fun hd => hstarted (by omega), fun hd => hrefused (by omega)⟩
  · rw [expandPseudo, runProgram_lineOf_of_ready hfirst (by rw [hout]; rfl), runProgram_lineOf_of_ready hsecond hready,
      runProgram_nil, hout]
    rfl
  · rw [hintKept, hint, clkdivInt_toNat]
  · rw [hfracKept, hfrac, clkdivFrac_toNat]

/-! ## The divisor (R294) -/

/-- ClkdivFor fails exactly if the integer part of the divisor does not fit INT, or is 0. -/
theorem clkdivFor_eq_none_iff (f r bc : Nat) :
    clkdivFor f r bc = none ↔ clkdivD f r bc < 256 ∨ 65536 * 256 ≤ clkdivD f r bc := by
  have hrange : (clkdivD f r bc / 256 = 0 ∨ 0xFFFF < clkdivD f r bc / 256) ↔
      (clkdivD f r bc < 256 ∨ 65536 * 256 ≤ clkdivD f r bc) := by omega
  rw [← hrange, clkdivFor]
  split <;> simp_all

/-- A divisor in 1/256 units that fits CLKDIV is what the fields of its word make (R40, R122). -/
theorem clkdivFields_of_divisor {D : Nat} (hD : D < 65536 * 256) :
    let v := BitVec.ofNat 32 ((D / 256) * 2 ^ 16 + (D % 256) * 2 ^ 8)
    (clkdivInt v).toNat = D / 256 ∧ (clkdivFrac v).toNat = D % 256 := by
  simp only [clkdivInt_toNat, clkdivFrac_toNat, BitVec.toNat_ofNat]
  omega

/-- The word that ClkdivFor answers, by its fields: the divisor's integer part, which is not 0, and its fraction. -/
theorem clkdivFor_eq_some {f r bc : Nat} {v : Word} (h : clkdivFor f r bc = some v) :
    (clkdivInt v).toNat ≠ 0 ∧ (clkdivInt v).toNat * 256 + (clkdivFrac v).toNat = clkdivD f r bc := by
  have hlegal : ¬ (clkdivD f r bc < 256 ∨ 65536 * 256 ≤ clkdivD f r bc) := by
    rw [← clkdivFor_eq_none_iff, h]
    simp
  rw [clkdivFor] at h
  split at h
  case isTrue => cases h
  case isFalse =>
    cases h
    obtain ⟨hint, hfrac⟩ := clkdivFields_of_divisor (D := clkdivD f r bc) (by omega)
    rw [hint, hfrac]
    omega

/-- Settles O56: writing the word sets Dfix to `D`, the quotient of `f * 256` by `r * bc`. -/
theorem divisorComputation : Obligations.DivisorComputation := by
  unfold Obligations.DivisorComputation
  intro f r bc s v hstopped hr hbc
  refine ⟨clkdivFor_eq_none_iff f r bc, fun hv => ?_⟩
  obtain ⟨hint, hD⟩ := clkdivFor_eq_some hv
  refine ⟨_, exec_wrClkdiv_of_stopped hstopped v, rfl, ?_, ?_, hint⟩ <;>
    simp only [State.writeCompletes_blk, Block.dfix, hD, clkdivD]
  · exact Nat.div_mul_le_self _ _
  · rw [Nat.mul_comm (_ + 1)]
    exact Nat.lt_mul_div_succ _ (Nat.mul_pos hr hbc)

/-! ## ColorWords (R290) -/

/-- The number that `serialize` forms, the header on top. -/
theorem serialize_toNat (a b c : BitVec 8) :
    (serialize a b c).toNat = 0xFF000000 + a.toNat * 2 ^ 16 + b.toNat * 2 ^ 8 + c.toNat := by
  rw [serialize, BitVec.toNat_setWidth_of_le (by decide), toNat_append_eq_add, toNat_append_eq_add, toNat_append_eq_add]
  simp
  omega

/-- No ColorWord is the sentinel, because its header is not 0 (R290). -/
theorem serialize_ne_zero (a b c : BitVec 8) : serialize a b c ≠ 0 := by
  intro h0
  have hzero : (serialize a b c).toNat = 0 := congrArg BitVec.toNat h0
  rw [serialize_toNat] at hzero
  omega

/-- Settles O55: each field read finds its byte above the bytes below it. -/
theorem serializeRoundTrip : Obligations.SerializeRoundTrip := by
  unfold Obligations.SerializeRoundTrip
  intro a b c
  refine ⟨serialize_toNat a b c, ?_, ?_, ?_, ?_, serialize_ne_zero a b c⟩ <;>
    simp (disch := omega) only [serialize, colorHeader, colorA, colorB, colorC, BitVec.extractLsb'_setWidth_of_le,
      BitVec.extractLsb'_append_eq_of_le, BitVec.extractLsb'_append_eq_of_add_le, BitVec.extractLsb'_eq_self,
      BitVec.ofNat_eq_ofNat, Nat.reduceSub]

end Sys2Proof.Machine
end

section
/-! PROOFS. Bus errors, interrupts and stops (60_exceptions.md): the step is total while the clock runs (R328, R329), an error
leaves everything but its record as it is (R311 to R314), an event reaches `irq` (R318, R319), and a refused start keeps the
encoder off until reset (R316). -/

namespace Sys2Proof.Machine

/-! ## The step is total (R328, R329) -/

/-- With a legal configuration and a running clock the step is the cycle, a reset cycle included. -/
theorem step_of_cycle {s : State} {i : Inputs} (hc : s.cfg.problem = none) (hi : s.stimulus = .cycle i) :
    step s = runCycle i s := by
  simp [step, advance, hc, hi]

/-- A cycle always has an end: a reset needs nothing, and HostTxn always answers. -/
theorem runCycle_exists (i : Inputs) (s : State) : ∃ t, runCycle i s = .next t := by
  cases hr : i.rst with
  | true => exact ⟨s.resetCycle, by simp [runCycle, hr]⟩
  | false =>
    obtain ⟨s1, hhost, -⟩ := hostTxn_effect i.port s
    exact ⟨s.commit i s1, runCycle_of_host hr hhost⟩

theorem step_of_clockStopped {s : State} (hc : s.cfg.problem = none) (hi : s.stimulus = .clockStopped) :
    step s = .fault .clockStopped := by
  simp [step, advance, hc, hi]

/-- Settles O8: the step is the cycle, which has an end, and no step changes the configuration. -/
theorem runningClockNeverStops : Obligations.RunningClockNeverStops := by
  unfold Obligations.RunningClockNeverStops
  refine fun s hc => ⟨fun i hi => ?_, step_of_clockStopped hc⟩
  obtain ⟨t, ht⟩ := runCycle_exists i s
  have hs : step s = .next t := (step_of_cycle hc hi).trans ht
  exact ⟨t, hs, (step_environment hs).1⟩

/-! ## An error and its record (R311 to R314) -/

/-- `resp = 1` is the answer of a bus error only (R92, R311). -/
theorem HostEffect.eq_busError_of_resp {s t : State} (h : HostEffect s t) (hresp : t.out.resp = true) :
    ∃ c we a, t = s.busError c we a := by
  cases h with
  | error c we a => exact ⟨c, we, a, rfl⟩
  | _ => exact absurd hresp Bool.false_ne_true

/-- The hardware committed over a bus error: it is that of a cycle in which the port changes nothing. -/
theorem commit_busError (i : Inputs) (s : State) (c : BusCause) (we : Bool) (a : Offset) :
    (s.commit i (s.busError c we a)).blk =
      { (s.commit i s.portIdle).blk with
        busErr := s.blk.busErr.record c we a
        cfgErr := s.blk.cfgErr || c == .config } := rfl

/-- The same cycle with `sel = 0`: the commit reads the signal inputs, which are the same, and not the host port (R33, R90). -/
theorem runCycle_idle {i : Inputs} (hr : i.rst = false) (s : State) :
    runCycle { i with port := PortIn.idle } s = .next (s.commit i s.portIdle) :=
  runCycle_of_host (i := { i with port := PortIn.idle }) hr (hostTxn_of_not_sel rfl s)

/-- Settles O20: the answer says that HostTxn was a bus error, so both cycles commit the same hardware functions, over blocks
that differ in the error record and `cfg_err`. -/
theorem errorsArePrecise : Obligations.ErrorsArePrecise := by
  unfold Obligations.ErrorsArePrecise
  intro s t u i hr ht hresp hu
  obtain ⟨s1, hhost, he⟩ := hostTxn_effect i.port s
  rw [runCycle_of_host hr hhost] at ht
  rw [runCycle_idle hr s] at hu
  cases ht
  cases hu
  obtain ⟨c, we, a, rfl⟩ := he.eq_busError_of_resp hresp
  rw [commit_busError]

/-- The response, `cfg_err` and BUSERR after a cycle that presents an error encoding (R125, R311): the hardware writes none of
them. -/
theorem step_of_decode_error {s : State} {i : Inputs} {c : BusCause} (hi : RunsCycle s i) (hsel : i.port.sel = true)
    (hdec : decode i.port.word = .error c) :
    ∃ t, step s = .next t ∧ t.out = { ready := true, resp := true, rdata := 0 } ∧ t.blk.cfgErr = s.blk.cfgErr ∧
      t.blk.busErr = s.blk.busErr.record c i.port.we i.port.addr := by
  have hhost := hostTxn_of_decode_error hsel hdec s
  exact ⟨_, (step_of_runs hi).trans (runCycle_of_host hi.noReset hhost), rfl, rfl, rfl⟩

/-- Settles O19: the record after the cycle is R311's, which depends on whether one is held. -/
theorem errorRecordKeepsFirst : Obligations.ErrorRecordKeepsFirst := by
  unfold Obligations.ErrorRecordKeepsFirst
  intro s i c hi hsel hdec
  obtain ⟨t, hs, hout, herr, hrec⟩ := step_of_decode_error hi hsel hdec
  refine ⟨t, hs, hout, herr, fun hnone => ?_, fun k hsome => ?_⟩
  · rw [hrec, BusErr.record_of_none hnone]
    exact ⟨rfl, rfl, rfl, rfl⟩
  · rw [hrec, BusErr.record_of_some hsome]
    exact ⟨hsome, rfl, rfl, rfl⟩

/-! ## From an event to `irq` (R318, R319) -/

/-- The falling edge of an enabled unit's channel sets its event bit, whatever the transaction (R236, R263). -/
theorem step_event_of_fall {s t : State} {i : Inputs} (hi : RunsCycle s i) (hs : step s = .next t) {c : Nat} (hc : c < 3)
    (hen : (if c < 2 then s.blk.decEn else s.blk.wdtEn) = true) (hprev : s.blk.sprev.getLsbD c = true)
    (hlow : s.blk.sync2.getLsbD c = false) : t.blk.events.getLsbD c = true := by
  by_cases hch : c < 2
  · rw [if_pos hch] at hen
    exact step_event_of_capture hi hs (c := ⟨c, hch⟩) (by rw [captures_eq s.blk hc, hen, hprev, hlow]; rfl)
  · obtain rfl : c = 2 := by omega
    rw [if_neg hch] at hen
    exact step_event_of_recordsUpdate hi hs (by rw [recordsUpdate_eq, hen, hprev, hlow]; rfl)

/-- Settles O37: `irq` is a function of the next state, where the event stands; and IRQ_EN has bits 0 to 2 only. -/
theorem eventRaisesInterrupt : Obligations.EventRaisesInterrupt := by
  unfold Obligations.EventRaisesInterrupt
  intro s t i c hi hs hc
  refine ⟨fun hen hprev hlow hirq => (irq_iff t.blk).2 ⟨c, step_event_of_fall hi hs hc hen hprev hlow, hirq⟩, fun h => ?_⟩
  obtain ⟨k, hev, hirq⟩ := (irq_iff t.blk).1 h
  exact ⟨k, BitVec.lt_of_getLsbD hirq, hev, hirq⟩

/-! ## After a refused start (R316) -/

theorem inv_of_after {n : Nat} {s t : State} (h : Inv s) (hu : Undisturbed n s) (ht : s.after n = .next t) : Inv t :=
  after_keeps (fun s t _ hinv _ hs => invariantKeptByStep s t hinv hs) hu ht h

/-- ENC_EN and `cfg_err` exclude each other (R153). -/
theorem Inv.encEn_of_cfgErr {s : State} (h : Inv s) (herr : s.blk.cfgErr = true) : s.blk.encEn = false :=
  Bool.eq_false_of_not_eq_true fun hen => by simp [h.exclusive hen] at herr

/-- The output of an encoder that is not started is low (R204, R209). -/
theorem Inv.dout_of_stopped {s : State} (h : Inv s) (hstopped : s.blk.encEn = false) : s.blk.dout = false := by
  rw [Block.dout, h.doutLevel, h.encStopped hstopped, level]

/-- Settles O54: `cfg_err` is kept along the run, and with the invariant it keeps ENC_EN at 0; the rest is what the invariant
and the two writes say of a stopped encoder. A WR CTRL of 6 does not request the start, so it is accepted. -/
theorem refusedStartIsFatal : Obligations.RefusedStartIsFatal := by
  unfold Obligations.RefusedStartIsFatal
  intro n s t v w hinv herr hu ht
  obtain ⟨-, -, -, hkept, -⟩ := configurationIsMonotone n s t hinv hu ht
  have hinv' : Inv t := inv_of_after hinv hu ht
  have herr' : t.blk.cfgErr = true := hkept herr
  have hstopped : t.blk.encEn = false := hinv'.encEn_of_cfgErr herr'
  have hnoStart : ¬ startRefused 6 t.blk = true := by simp [startRefused_iff]
  refine ⟨herr', hstopped, hinv'.dout_of_stopped hstopped, fun hreq => ?_, ?_, ?_⟩
  · have href : startRefused v t.blk = true := (startRefused_iff v t.blk).2 ⟨hreq, hstopped, .inr herr'⟩
    exact ⟨_, exec_wrCtrl_of_refused href, rfl, hstopped⟩
  · exact ⟨_, exec_wrTxfifo_of_stopped hstopped w, rfl, hinv'.fifoStarted hstopped⟩
  · exact ⟨_, exec_wrCtrl_of_accepted hnoStart, rfl, by simp [ctrlDecReq], by simp [ctrlWdtReq]⟩

end Sys2Proof.Machine
end

section
/-! PROOFS. Reset (70_reset_and_hazards.md): what a cycle with `rst = 1` leaves (R340 to R342, R357), and what each read returns
right after it (R344). -/

namespace Sys2Proof.Machine

/-! ## The reset cycle (R340) -/

/-- Under a legal configuration the reset pin alone decides: no other input is looked at. -/
theorem step_of_reset {s : State} {i : Inputs} (hc : s.cfg.problem = none) (hi : s.stimulus = .cycle i)
    (hr : i.rst = true) : step s = .next s.resetCycle := by
  rw [step_of_cycle hc hi, runCycle, if_pos hr]

/-- After reset no event is pending, so `irq` is low (R62, R318). -/
theorem irq_reset : Block.reset.irq = false :=
  Bool.eq_false_of_not_eq_true fun h => by
    obtain ⟨c, hev, -⟩ := (irq_iff Block.reset).1 h
    simp [Block.reset] at hev

/-- Settles O10: the step is the reset cycle, whose block is ResetState, element by element as R62 writes it. -/
theorem resetCycleGivesResetState : Obligations.ResetCycleGivesResetState := by
  unfold Obligations.ResetCycleGivesResetState
  intro s i hc hi hr
  exact ⟨s.resetCycle, step_of_reset hc hi hr, rfl, rfl, rfl, irq_reset, rfl, rfl⟩

/-! ## The registers after reset (R344) -/

/-- CTRL: no enable is set. -/
theorem ctrlValue_reset : Block.reset.ctrlValue = 0 := by decide

/-- STATUS: TX_EMPTY alone. The empty queue is not full because FIFO_DEPTH is at least 1 (R6). -/
theorem statusValue_reset {c : Config} (hc : c.problem = none) : Block.reset.statusValue c = 1 := by
  obtain ⟨-, -, -, -, ⟨hdepth, -⟩, -⟩ := (problem_eq_none_iff c).1 hc
  have hfull : Block.reset.txFull c = false := by
    rw [txFull_eq, decide_eq_false_iff_not]
    exact Nat.ne_of_lt hdepth
  rw [Block.statusValue, hfull]
  decide

/-- WDT: EXPIRED alone, as the watchdog is not installed (R264). -/
theorem wdtValue_reset (c : Config) : Block.reset.wdtValue c = 1 := by
  have hexpired : Block.reset.expired c = true := (expiredComparator c Block.reset).2 (.inl rfl)
  rw [Block.wdtValue, hexpired]
  decide

/-- BUSERR: no record. -/
theorem busErrValue_clear : BusErr.clear.value = 0 := by decide

/-- The transaction `i` completes without an error and its read data is the number `n`. -/
def State.Returns (s : State) (i : Instr) (n : Nat) : Prop :=
  ∃ t, exec i s = .next t ∧ t.out.ready = true ∧ t.out.resp = false ∧ t.out.rdata.toNat = n

/-- The reads without a side effect (R92). -/
theorem State.returns_of_readReturns {s : State} {i : Instr} {v : Word} {n : Nat}
    (h : exec i s = .next (s.readReturns v)) (hv : v.toNat = n) : s.Returns i n :=
  ⟨_, h, rfl, rfl, hv⟩

/-- The reads that also latch a high word (R100). -/
theorem State.returns_of_readWithEffect {s : State} {i : Instr} {v : Word} {b : Block} {n : Nat}
    (h : exec i s = .next (s.readWithEffect v b)) (hv : v.toNat = n) : s.Returns i n :=
  ⟨_, h, rfl, rfl, hv⟩

/-- CTRL, STATUS, EVENTS, CLKDIV, WDT and BUSERR: their fields at ResetState. -/
theorem controlReads_reset {c : Config} (hc : c.problem = none) :
    let s := State.resetWith c
    s.Returns .rdCtrl 0 ∧ s.Returns .rdStatus 1 ∧ s.Returns .rdEvents 0 ∧ s.Returns .rdClkdiv 0x00010000 ∧
    s.Returns .rdWdt 1 ∧ s.Returns .rdBuserr 0 := by
  intro s
  obtain ⟨⟨_, hevents, hev⟩, ⟨_, hclkdiv, hdiv⟩⟩ := eventsAndDivisorReadResults s
  exact ⟨State.returns_of_readReturns rfl (congrArg BitVec.toNat ctrlValue_reset),
    State.returns_of_readReturns rfl (congrArg BitVec.toNat (statusValue_reset hc)),
    State.returns_of_readReturns hevents hev,
    State.returns_of_readReturns hclkdiv (by simp [hdiv, s, Block.reset]),
    State.returns_of_readReturns rfl (congrArg BitVec.toNat (wdtValue_reset c)),
    State.returns_of_readReturns rfl (congrArg BitVec.toNat busErrValue_clear)⟩

/-- Both channels' widths and counters are 0. -/
theorem channelReads_reset (c : Config) :
    let s := State.resetWith c
    s.Returns .rdSteerWidth 0 ∧ s.Returns .rdThrWidth 0 ∧ s.Returns .rdSteerCnt 0 ∧ s.Returns .rdThrCnt 0 := by
  intro s
  obtain ⟨⟨_, hsw, hswv⟩, ⟨_, htw, htwv⟩, ⟨_, hsc, hscv⟩, ⟨_, htc, htcv⟩⟩ := widthAndCounterReadResults s
  exact ⟨State.returns_of_readReturns hsw hswv, State.returns_of_readReturns htw htwv,
    State.returns_of_readReturns hsc hscv, State.returns_of_readReturns htc htcv⟩

/-- The time base, the timestamp and their latches are 0. -/
theorem timeReads_reset (c : Config) :
    let s := State.resetWith c
    s.Returns .rdTimeLo 0 ∧ s.Returns .rdTimeHi 0 ∧ s.Returns .rdLastLo 0 ∧ s.Returns .rdLastHi 0 :=
  have hlow : (lowWord 0).toNat = 0 := by decide
  ⟨State.returns_of_readWithEffect rfl hlow, State.returns_of_readReturns rfl rfl,
    State.returns_of_readWithEffect rfl hlow, State.returns_of_readReturns rfl rfl⟩

/-- The hardwired registers, with R6's defaults for the encoder's timing: they are the same in every state (R156, R157, R274). -/
theorem parameterReads_default {s : State} (h1 : s.cfg.t1 = 8) (h2 : s.cfg.t2 = 6) (h3 : s.cfg.t3 = 8)
    (hpull : s.cfg.pullBits = 24) (hc : s.cfg.problem = none) :
    s.Returns .rdWdtThresh (100 * s.cfg.sysClkHz / (1000 * s.cfg.timeDiv)) ∧ s.Returns .rdParam0 0x18080608 ∧
    (s.cfg.bitOrder = .lsbFirst → s.cfg.fifoDepth = 4 → s.Returns .rdParam1 (s.cfg.resetPeriods * 65536 + 4)) := by
  obtain ⟨⟨_, hparam0, hv0⟩, ⟨_, hparam1, hv1⟩, ⟨_, hthresh, hvt⟩⟩ :=
    parameterReadResults s hc (by omega) (by omega) (by omega)
  refine ⟨State.returns_of_readReturns hthresh hvt, State.returns_of_readReturns hparam0 ?_, fun horder hdepth =>
    State.returns_of_readReturns hparam1 ?_⟩
  · simp [hv0, hpull, h1, h2, h3]
  · simp [hv1, horder, hdepth]

/-- Settles O11: the table of R344, from the four groups of registers. -/
theorem readsAfterReset : Obligations.ReadsAfterReset := by
  unfold Obligations.ReadsAfterReset
  intro c h1 h2 h3 hpull hc
  obtain ⟨hctrl, hstatus, hevents, hclkdiv, hwdt, hbuserr⟩ := controlReads_reset hc
  obtain ⟨hsteerWidth, hthrWidth, hsteerCnt, hthrCnt⟩ := channelReads_reset c
  obtain ⟨htimeLo, htimeHi, hlastLo, hlastHi⟩ := timeReads_reset c
  obtain ⟨hthresh, hparam0, hparam1⟩ := parameterReads_default (s := State.resetWith c) h1 h2 h3 hpull hc
  exact ⟨hctrl, hstatus, hevents, hclkdiv, hsteerWidth, hthrWidth, hsteerCnt, hthrCnt, htimeLo, htimeHi, hlastLo, hlastHi,
    hthresh, hwdt, hparam0, hparam1, hbuserr⟩

end Sys2Proof.Machine
end
